-- ==== Sys2Proof/Word.lean ====
section
/-! DEFINITION. The words of REMORSE-CORE: the widths spec/00_scope.md rule R11 and spec/10_state.md rule R20 give.
Arithmetic is on mathematical integers (spec/00_scope.md rule R13): a rule reads a word with `toNat`, computes on
`Nat` or `Int`, and writes the result back with `BitVec.ofNat`; nothing here wraps on its own. -/

namespace Sys2Proof

/-- A 32-bit register or argument field (`CFG_W`, `COUNTER_W`, `ARG_W`: R11). -/
abbrev Word := BitVec 32

/-- A 15-bit amplitude register, 0..32767 (RATE_HIGH, RATE_LOW, OUT_VOLUME: R30 to R32). -/
abbrev Amp := BitVec 15

/-- The 16 parallel bits of a sample on a port (R65). -/
abbrev SampleBits := BitVec 16

/-- A command word, `cmd[35:0]` (`CMD_W`: R11, R90). -/
abbrev CmdWord := BitVec 36

/-- A register index, `dbg_sel[4:0]` (R61, R98). -/
abbrev RegIndex := BitVec 5

/-- A byte of the serialized sample stream, outside the block (R66). -/
abbrev Byte := BitVec 8

end Sys2Proof
end

