-- ==== Sys2Proof/Machine/Operands.lean ====
section
/-! DEFINITION. The two operand forms (spec/30_encoding.md rule R99), the code of a sample on the ports
(spec/20_memory.md rule R65), and the serialized form of a sample stream, which the framer outside the block reads
and writes (R66, R67). -/

namespace Sys2Proof.Machine

/-- `sext_N` of a 16-bit field (spec/00_scope.md rule R13): the field read as two's complement. -/
def sext16 (b : SampleBits) : Int :=
  if b.toNat < 32768 then (b.toNat : Int) else (b.toNat : Int) - 65536

/-- The value operand: the 32 bits of `arg` as an unsigned integer (R92, R99). -/
def valueOperand (arg : Word) : Nat := arg.toNat

/-- The sample operand: `arg[15:0]` sign-extended; `arg[31:16]` is ignored (R93, R99). -/
def sampleOperand (arg : Word) : Int := sext16 (arg.extractLsb' 0 16)

/-- The bits of a sample on a port: `v mod 2^16` (R65). -/
def sampleBits (v : Int) : SampleBits := BitVec.ofNat 16 (v % 65536).toNat

/-- `FrameIn(b0, b1)`: the sample of two bytes of the serialized stream, `b0` read first (R66). -/
def frameIn (b0 b1 : Byte) : Int := sext16 (b1 ++ b0)

/-- `FrameOut(v)`: the first and the second byte written for the sample `v` (R66). -/
def frameOut (v : Int) : Byte × Byte :=
  ((sampleBits v).extractLsb' 0 8, (sampleBits v).extractLsb' 8 8)

/-- The samples of a serialized stream: the byte pairs at offsets (2n, 2n+1); a partial trailing byte is discarded
(R67). -/
def samplesOfBytes : List Byte → List Int
  | b0 :: b1 :: rest => frameIn b0 b1 :: samplesOfBytes rest
  | _ => []

/-- The serialized form of a sequence of samples, low byte of each first (R66). -/
def bytesOfSamples : List Int → List Byte
  | [] => []
  | v :: rest => (frameOut v).1 :: (frameOut v).2 :: bytesOfSamples rest

end Sys2Proof.Machine
end

