-- ==== Sys2Proof/Syntax.lean ====
section
/-! DEFINITION. The ten commands of spec/30_encoding.md rule R94, one constructor per row of
spec/opcode_table.json. An operand is the number the command word stands for (R99): a value operand is a natural
number, a sample operand an integer. The ignored argument bits of formats N and S (R91, R93) select nothing and are
no part of a command. -/

namespace Sys2Proof

/-- A command of the block (R94). -/
inductive Instr where
  /-- `NOP`, format N (R221). -/
  | nop
  /-- `SETATK value`, format V (R121). -/
  | setatk (ms : Nat)
  /-- `SETREL value`, format V (R122). -/
  | setrel (ms : Nat)
  /-- `SETTONE value`, format V (R123). -/
  | settone (hz : Nat)
  /-- `SETRATE value`, format V (R124). -/
  | setrate (hz : Nat)
  /-- `SETHI value`, format V (R125). -/
  | sethi (pct : Nat)
  /-- `SETLO value`, format V (R126). -/
  | setlo (pct : Nat)
  /-- `SETVOL value`, format V (R127). -/
  | setvol (pct : Nat)
  /-- `INIT`, format N (R128). -/
  | init
  /-- `STEP sample`, format S (R220). -/
  | step (sample : Int)
  deriving DecidableEq, Repr

end Sys2Proof
end

