-- ==== Sys2Proof/WellFormed.lean ====
section
/-! DEFINITION. Which commands have a command word: the operand ranges of spec/30_encoding.md rule R100 ("An operand
outside its range is an assembler error, not a command"). -/

namespace Sys2Proof

/-- The operand range of format V, 0 .. 4294967295 (R92, R100). -/
abbrev ValueInRange (v : Nat) : Prop := v < 2 ^ 32

/-- The operand range of format S, −32768 .. 32767 (R65, R100). -/
abbrev SampleInRange (x : Int) : Prop := -32768 ≤ x ∧ x ≤ 32767

/-- The operand of the command lies in the range of its format. -/
def Instr.wellFormed : Instr → Bool
  | .nop => true
  | .setatk v => decide (ValueInRange v)
  | .setrel v => decide (ValueInRange v)
  | .settone v => decide (ValueInRange v)
  | .setrate v => decide (ValueInRange v)
  | .sethi v => decide (ValueInRange v)
  | .setlo v => decide (ValueInRange v)
  | .setvol v => decide (ValueInRange v)
  | .init => true
  | .step x => decide (SampleInRange x)

/-- `i` is a command that a command word can hold. -/
abbrev Instr.WellFormed (i : Instr) : Prop := i.wellFormed = true

end Sys2Proof
end

