-- ==== Sys2Proof/Decode.lean ====
section
/-! DEFINITION. The decoder of the 36-bit command word and the encoder after it (spec/30_encoding.md rules R90 to
R96). The decoder is total and looks at `op` alone to select the command (R96). -/

namespace Sys2Proof

/-- Why a command word is no command. -/
inductive Rejection where
  /-- `op` is one of the reserved opcodes 0xA to 0xF (R95). -/
  | reservedOpcode (op : BitVec 4)
  deriving DecidableEq, Repr

/-- `op = cmd[35:32]` (R90). -/
def opField (w : CmdWord) : BitVec 4 := w.extractLsb' 32 4

/-- `arg = cmd[31:0]` (R90). -/
def argField (w : CmdWord) : Word := w.extractLsb' 0 32

/-- The command that a command word stands for, or why it is none (R94, R95, R96). -/
def decode (w : CmdWord) : Except Rejection Instr :=
  match (opField w).toNat with
  | 0x0 => .ok .nop
  | 0x1 => .ok (.setatk (Machine.valueOperand (argField w)))
  | 0x2 => .ok (.setrel (Machine.valueOperand (argField w)))
  | 0x3 => .ok (.settone (Machine.valueOperand (argField w)))
  | 0x4 => .ok (.setrate (Machine.valueOperand (argField w)))
  | 0x5 => .ok (.sethi (Machine.valueOperand (argField w)))
  | 0x6 => .ok (.setlo (Machine.valueOperand (argField w)))
  | 0x7 => .ok (.setvol (Machine.valueOperand (argField w)))
  | 0x8 => .ok .init
  | 0x9 => .ok (.step (Machine.sampleOperand (argField w)))
  | _ => .error (.reservedOpcode (opField w))

/-- The opcode of a command (R94). -/
def Instr.opcode : Instr → BitVec 4
  | .nop => 0x0
  | .setatk _ => 0x1
  | .setrel _ => 0x2
  | .settone _ => 0x3
  | .setrate _ => 0x4
  | .sethi _ => 0x5
  | .setlo _ => 0x6
  | .setvol _ => 0x7
  | .init => 0x8
  | .step _ => 0x9

/-- The argument field the assembler emits: 0 for format N (R91), the value for format V (R92), the sample's 16 bits
under 16 zeros for format S (R93). -/
def Instr.argument : Instr → Word
  | .nop => 0
  | .setatk v => BitVec.ofNat 32 v
  | .setrel v => BitVec.ofNat 32 v
  | .settone v => BitVec.ofNat 32 v
  | .setrate v => BitVec.ofNat 32 v
  | .sethi v => BitVec.ofNat 32 v
  | .setlo v => BitVec.ofNat 32 v
  | .setvol v => BitVec.ofNat 32 v
  | .init => 0
  | .step x => (Machine.sampleBits x).setWidth 32

/-- The command word of a command, `op ‖ arg` (R90, R100). -/
def encode (i : Instr) : CmdWord := i.opcode ++ i.argument

/-- The argument bits that a word with the opcode `op` ignores: all of `arg` for `NOP` and `INIT` (R91),
`arg[31:16]` for `STEP` (R93), none for a `SET*` (R92). -/
def ignoredBits (op : BitVec 4) : Word :=
  if op = 0x0 ∨ op = 0x8 then 0xFFFFFFFF else if op = 0x9 then 0xFFFF0000 else 0

/-- The word with its ignored bits put to 0, as the assembler writes them (R91, R93). -/
def canonicalWord (w : CmdWord) : CmdWord :=
  opField w ++ (argField w &&& ~~~ ignoredBits (opField w))

/-- What the decoder reads from an instruction whose bits are `w`, numbered as spec/opcode_table.json numbers them
(one 36-bit word, bit 0 its least significant bit); the bits above `nbits` are 0. -/
def decodeTableWord (nbits w : Nat) : Option Instr :=
  if w % 2 ^ nbits < 2 ^ 36 then
    match decode (BitVec.ofNat 36 (w % 2 ^ nbits)) with
    | .ok i => some i
    | .error _ => none
  else none

end Sys2Proof
end

