-- ==== Sys2Proof/Config.lean ====
section
/-! DEFINITION. What this hardware fixes (spec/00_scope.md rules R9, R11, R12) and the model's one free value.
The parameters `SINQ` and `ENVQ` of R11 are functions this hardware gives a value to; they stand in
Machine/Sine.lean. -/

namespace Sys2Proof.Config

/-- `AMP_MAX`, the top of the amplitude domain of thresholds and volume (R9). -/
abbrev ampMax : Nat := 32767

/-- `PEAK_FRAC`, the fraction bits of PEAK (R11, R17). -/
abbrev peakFrac : Nat := 16

/-- `DECAY_NUM` of the decay factor 19/20 (R11, R153). -/
abbrev decayNum : Nat := 19

/-- `DECAY_DEN` of the decay factor 19/20 (R11, R153). -/
abbrev decayDen : Nat := 20

/-- `PHASE_FRAC`, the fraction bits of PHASE and ANGLE_STEP (R11, R17). -/
abbrev phaseFrac : Nat := 29

/-- `TWO_PI_FX`, 2π in PHASE format, rounded down (R12). -/
abbrev twoPiFx : Nat := 3373259426

/-- 1.0 as a sine value or an envelope value: 2^`Q` with `Q` = 15 (R11, R17). -/
abbrev one : Nat := 32768

/-- `OUT_SHIFT`: the triple product is divided by 2^30, toward zero (R11, R197). -/
abbrev outShift : Nat := 30

/-- THE MODEL'S FREE VALUES. `freeWord n` is the word that the n-th draw gives. It has no body, so nothing in a
proof can depend on what it is. A draw stands for a register's contents, or for an output sample, that the spec
calls `UNDEFINED` (R16, R129); `State.freeDraws` counts the draws. Assumption log 1. -/
opaque freeWord : Nat → BitVec 32

end Sys2Proof.Config
end

