-- ==== Sys2Proof/Machine/State.lean ====
section
/-! DEFINITION. The architectural state (spec/10_state.md): the 17 registers of rule R20 in their three classes, what
the host drives on the input ports and what the block drives on the output ports (spec/20_memory.md rules R60, R61),
and two fields of the model's own for results the spec calls `UNDEFINED`. Plain data throughout. The block has no
memory, no program counter, no flags and no exception registers (R43, R44, R60, R240). -/

namespace Sys2Proof.Machine

/-- The lifecycle state held in STATE (R35, R97, R170). -/
inductive Lifecycle where
  | off
  | attack
  | sustain
  | release
  deriving DecidableEq, Repr

/-- The seven configuration registers, indices 0 to 6, 32 bits each (R20 a, R21 to R27). -/
structure ConfigRegs where
  /-- ATTACK_MS, index 0 (R21). -/
  attackMs : Word
  /-- RELEASE_MS, index 1 (R22). -/
  releaseMs : Word
  /-- TONE_HZ, index 2 (R23). -/
  toneHz : Word
  /-- SAMPLERATE_HZ, index 3 (R24). -/
  samplerateHz : Word
  /-- HITHRES_PCT, index 4 (R25). -/
  hithresPct : Word
  /-- LOTHRES_PCT, index 5 (R26). -/
  lothresPct : Word
  /-- VOLUME_PCT, index 6 (R27). -/
  volumePct : Word
  deriving DecidableEq, Repr

/-- The six derived-parameter registers, indices 8 to 13 (R20 b, R28 to R33). -/
structure DerivedRegs where
  /-- ATTACK_SAMPLES, index 8, 32 bits (R28). -/
  attackSamples : Word
  /-- RELEASE_SAMPLES, index 9, 32 bits (R29). -/
  releaseSamples : Word
  /-- RATE_HIGH, index 10, 15 bits (R30). -/
  rateHigh : Amp
  /-- RATE_LOW, index 11, 15 bits (R31). -/
  rateLow : Amp
  /-- OUT_VOLUME, index 12, 15 bits (R32). -/
  outVolume : Amp
  /-- ANGLE_STEP, index 13, 32 bits, UQ3.29 radians per sample (R33). -/
  angleStep : Word
  deriving DecidableEq, Repr

/-- The four stream-state registers, indices 16 to 19 (R20 c, R34 to R37). -/
structure StreamRegs where
  /-- PEAK, index 16, 32 bits, UQ16.16 (R34). -/
  peak : Word
  /-- STATE, index 17, coded on 2 bits (R35, R97). -/
  state : Lifecycle
  /-- COUNTER, index 18, 32 bits (R36). -/
  counter : Word
  /-- PHASE, index 19, 32 bits, UQ3.29 radians (R37). -/
  phase : Word
  deriving DecidableEq, Repr

/-- What the host drives on the input ports at one moment between two commands (R61, R62). -/
structure PortInput where
  /-- `rst` is asserted (R61, R270). -/
  rst : Bool
  /-- `cmd_valid`: the host presents a command word (R61). -/
  cmdValid : Bool
  /-- `cmd[35:0]`, the command word presented (R61, R90). -/
  cmd : CmdWord
  deriving DecidableEq, Repr

/-- The state of the block and of its ports between two commands. -/
structure State where
  /-- The configuration registers (R20 a). -/
  config : ConfigRegs
  /-- The derived-parameter registers (R20 b). -/
  derived : DerivedRegs
  /-- The stream-state registers (R20 c). -/
  stream : StreamRegs
  /-- False from an `INIT` under an illegal configuration until `RST` or a legal `INIT`: the ten derived and stream
  registers are then `UNDEFINED` (R129, R279). The model's own field; no port shows it. -/
  defined : Bool
  /-- How many free values have been drawn (`Config.freeWord`). The model's own field. -/
  freeDraws : Nat
  /-- What the host drives from now on, one entry per moment, the next first (R60 a, R63). -/
  portIn : List PortInput
  /-- The sample driven with `out_valid` in the last moment, if it was (R61, R64). -/
  outPort : Option SampleBits
  /-- The output sample stream: every sample driven since the last `RST`, in order (R60 c, R64). -/
  outStream : List SampleBits
  deriving DecidableEq, Repr

/-- The faults of the block. There are none: "The core has no internal error taxonomy", no command can raise anything
and there is no error output (R240). The type is empty, so no step ends in a fault. -/
inductive Fault where
  deriving DecidableEq, Repr

/-- Why a step has no meaning. -/
inductive Refusal where
  /-- Raised by an arm of `exec` whose instruction has no meaning yet; safe. Every arm has its meaning, so nothing
  raises it. -/
  | notModelled (mnemonic : String)
  /-- Raised by `step` when the command word accepted has a reserved opcode 0xA to 0xF, whose effect is `UNDEFINED`
  (R95); safe: the block would go on, in a state the spec gives no value for (R279). -/
  | reservedOpcode (op : BitVec 4)
  deriving DecidableEq, Repr

/-- The stream state as it is created at stream start: state OFF, phase 0, counter 0, peak 0 (R45, R128). -/
def StreamRegs.initial : StreamRegs :=
  { peak := 0, state := .off, counter := 0, phase := 0 }

/-- The state after `RST`: the table of R45 (R270). Nothing is presented on the command port and nothing has been
driven on the output. -/
def State.reset : State :=
  { config :=
      { attackMs := 10, releaseMs := 10, toneHz := 600, samplerateHz := 48000,
        hithresPct := 40, lothresPct := 10, volumePct := 90 }
    derived :=
      { attackSamples := 480, releaseSamples := 480, rateHigh := 13106, rateLow := 3276,
        outVolume := 29490, angleStep := 42165742 }
    stream := StreamRegs.initial
    defined := true
    freeDraws := 0
    portIn := []
    outPort := none
    outStream := [] }

end Sys2Proof.Machine
end

