-- ==== Sys2Proof/Machine/Ops.lean ====
section
/-! DEFINITION. The operations the meanings share: integer division toward zero, the code of STATE, the register index
space, what a command does to the output port, the contents of registers that are `UNDEFINED`, the reset event and the
command handshake.

TAKING AN EXCEPTION AND RETURNING FROM ONE have no operation here: the block has no exception, no trap entry and no
trap return (spec/60_exceptions.md rules R240, R244, R245). Its one asynchronous event is `rst`, which is
`takeReset`. -/

namespace Sys2Proof.Machine

/-! ## Integers -/

/-- `tz(a, b)`: the quotient truncated toward zero (R14). -/
def tz (a : Int) (b : Nat) : Int :=
  if 0 ≤ a then ((a.toNat / b : Nat) : Int) else -(((-a).toNat / b : Nat) : Int)

/-! ## The code of STATE -/

/-- The 2-bit code of a lifecycle state (R97). -/
def Lifecycle.code : Lifecycle → BitVec 2
  | .off => 0
  | .attack => 1
  | .sustain => 2
  | .release => 3

/-- The lifecycle state of a 2-bit code; all four codes are legal (R97). -/
def Lifecycle.ofCode (c : BitVec 2) : Lifecycle :=
  match c.toNat with
  | 0 => .off
  | 1 => .attack
  | 2 => .sustain
  | _ => .release

/-! ## The debug read port -/

/-- `dbg_data` for `dbg_sel`, between two commands: the register of that index, zero-extended to 32 bits, and 0 for an
index that names no register (R20, R69, R98, R250). -/
def debugRead (s : State) (sel : RegIndex) : Word :=
  match sel.toNat with
  | 0 => s.config.attackMs
  | 1 => s.config.releaseMs
  | 2 => s.config.toneHz
  | 3 => s.config.samplerateHz
  | 4 => s.config.hithresPct
  | 5 => s.config.lothresPct
  | 6 => s.config.volumePct
  | 8 => s.derived.attackSamples
  | 9 => s.derived.releaseSamples
  | 10 => s.derived.rateHigh.setWidth 32
  | 11 => s.derived.rateLow.setWidth 32
  | 12 => s.derived.outVolume.setWidth 32
  | 13 => s.derived.angleStep
  | 16 => s.stream.peak
  | 17 => s.stream.state.code.setWidth 32
  | 18 => s.stream.counter
  | 19 => s.stream.phase
  | _ => 0

/-! ## The output port -/

/-- The moment passes without `out_valid` (R64: "no other command asserts `out_valid`"). -/
def quiet (s : State) : State := { s with outPort := none }

/-- `SampleOut` of 16 bits: they are driven on `out_sample` with `out_valid` once (R15, R64). -/
def driveOut (b : SampleBits) (s : State) : State :=
  { s with outPort := some b, outStream := s.outStream ++ [b] }

/-- `SampleOut(v)`: `out_sample = v mod 2^16` (R15, R65). -/
def sampleOut (v : Int) (s : State) : State := driveOut (sampleBits v) s

/-! ## Writing registers -/

/-- A `SET*` command writes one configuration register and nothing else, and gives no output (R120). -/
def setConfig (c : ConfigRegs) (s : State) : State := quiet { s with config := c }

/-! ## Registers without a value (R16, R129) -/

/-- The k-th free value from here on. -/
def freeAt (s : State) (k : Nat) : Word := Config.freeWord (s.freeDraws + k)

/-- The derived registers with free contents. -/
def freeDerived (s : State) : DerivedRegs :=
  { attackSamples := freeAt s 0
    releaseSamples := freeAt s 1
    rateHigh := (freeAt s 2).setWidth 15
    rateLow := (freeAt s 3).setWidth 15
    outVolume := (freeAt s 4).setWidth 15
    angleStep := freeAt s 5 }

/-- The stream-state registers with free contents. -/
def freeStream (s : State) : StreamRegs :=
  { peak := freeAt s 6
    state := Lifecycle.ofCode ((freeAt s 7).setWidth 2)
    counter := freeAt s 8
    phase := freeAt s 9 }

/-- "The contents of all six derived registers and of the four stream-state registers are `UNDEFINED`" (R129): each
takes a free value, and the model remembers that they have none. -/
def undefineRegisters (s : State) : State :=
  { s with
    derived := freeDerived s
    stream := freeStream s
    defined := false
    freeDraws := s.freeDraws + 10 }

/-- An output sample without a value (R129: "so is every output sample in between"): it is driven, and its 16 bits
are free. -/
def driveFreeSample (s : State) : State :=
  driveOut ((freeAt s 0).setWidth 16) { s with freeDraws := s.freeDraws + 1 }

/-! ## The reset event and the command handshake -/

/-- `RST`: every register takes its reset value, the output port is idle, and the output stream starts anew (R64,
R270). What the host drives next, and the count of free values drawn, are not the block's to reset. -/
def takeReset (s : State) : State :=
  { State.reset with freeDraws := s.freeDraws, portIn := s.portIn }

/-- `cmd_ready` between two commands: asserted, except while `rst` is (R251, R270). -/
def cmdReady (p : PortInput) : Bool := !p.rst

/-- The command word accepted at a moment, if one is: `cmd_valid` and `cmd_ready` are asserted and `rst` is not
(R62). -/
def acceptedWord (p : PortInput) : Option CmdWord :=
  if p.cmdValid && cmdReady p && !p.rst then some p.cmd else none

/-- The host presents a command word. -/
def PortInput.present (w : CmdWord) : PortInput := { rst := false, cmdValid := true, cmd := w }

/-- The host asserts `rst` and presents nothing. -/
def PortInput.resetPulse : PortInput := { rst := true, cmdValid := false, cmd := 0 }

/-- The host drives nothing. -/
def PortInput.idle : PortInput := { rst := false, cmdValid := false, cmd := 0 }

end Sys2Proof.Machine
end

