-- ==== Sys2Proof/Machine/ConfigCommands.lean ====
section
/-! DEFINITION. The seven `SET*` commands and `INIT` (spec/40_config_derive.md). -/

namespace Sys2Proof.Machine

/-! ## The `SET*` commands -/

/-- `SETATK value`: `ATTACK_MS <- value` (R121). -/
def execSetatk (ms : Nat) (s : State) : Host.Outcome State Fault Refusal :=
  .next (setConfig { s.config with attackMs := BitVec.ofNat 32 ms } s)

/-- `SETREL value`: `RELEASE_MS <- value` (R122). -/
def execSetrel (ms : Nat) (s : State) : Host.Outcome State Fault Refusal :=
  .next (setConfig { s.config with releaseMs := BitVec.ofNat 32 ms } s)

/-- `SETTONE value`: `TONE_HZ <- value` (R123). -/
def execSettone (hz : Nat) (s : State) : Host.Outcome State Fault Refusal :=
  .next (setConfig { s.config with toneHz := BitVec.ofNat 32 hz } s)

/-- `SETRATE value`: `SAMPLERATE_HZ <- value`, 0 included (R124). -/
def execSetrate (hz : Nat) (s : State) : Host.Outcome State Fault Refusal :=
  .next (setConfig { s.config with samplerateHz := BitVec.ofNat 32 hz } s)

/-- `SETHI value`: `HITHRES_PCT <- value`, not clamped (R125). -/
def execSethi (pct : Nat) (s : State) : Host.Outcome State Fault Refusal :=
  .next (setConfig { s.config with hithresPct := BitVec.ofNat 32 pct } s)

/-- `SETLO value`: `LOTHRES_PCT <- value`, not clamped (R126). -/
def execSetlo (pct : Nat) (s : State) : Host.Outcome State Fault Refusal :=
  .next (setConfig { s.config with lothresPct := BitVec.ofNat 32 pct } s)

/-- `SETVOL value`: `VOLUME_PCT <- value`, not clamped (R127). -/
def execSetvol (pct : Nat) (s : State) : Host.Outcome State Fault Refusal :=
  .next (setConfig { s.config with volumePct := BitVec.ofNat 32 pct } s)

/-! ## `INIT` -/

/-- A time in milliseconds as a count of samples: `(ms * rate) div 1000` (R130, R131). -/
def sampleCount (ms rate : Nat) : Nat := ms * rate / 1000

/-- A percentage in the amplitude domain, clamped: `min(32767, (pct * 32767) div 100)` (R132 to R134, R136). -/
def percentToAmp (pct : Nat) : Nat := min Config.ampMax (pct * Config.ampMax / 100)

/-- The phase increment per sample: `(TWO_PI_FX * tone) div rate` (R135). -/
def angleStepOf (tone rate : Nat) : Nat := Config.twoPiFx * tone / rate

/-- `CfgLegal`: L1 to L4 of R129. Threshold ordering is no part of it (R138). -/
abbrev CfgLegal (c : ConfigRegs) : Prop :=
  1 ≤ c.samplerateHz.toNat ∧
  c.toneHz.toNat < c.samplerateHz.toNat ∧
  sampleCount c.attackMs.toNat c.samplerateHz.toNat ≤ 2 ^ 32 - 1 ∧
  sampleCount c.releaseMs.toNat c.samplerateHz.toNat ≤ 2 ^ 32 - 1

/-- The six derived parameters of a configuration (R128, R130 to R135). -/
def derive (c : ConfigRegs) : DerivedRegs :=
  { attackSamples := BitVec.ofNat 32 (sampleCount c.attackMs.toNat c.samplerateHz.toNat)
    releaseSamples := BitVec.ofNat 32 (sampleCount c.releaseMs.toNat c.samplerateHz.toNat)
    rateHigh := BitVec.ofNat 15 (percentToAmp c.hithresPct.toNat)
    rateLow := BitVec.ofNat 15 (percentToAmp c.lothresPct.toNat)
    outVolume := BitVec.ofNat 15 (percentToAmp c.volumePct.toNat)
    angleStep := BitVec.ofNat 32 (angleStepOf c.toneHz.toNat c.samplerateHz.toNat) }

/-- The derived parameters are computed and the stream state is created, and both have a value again (R128, R129). -/
def startStream (s : State) : State :=
  { s with derived := derive s.config, stream := StreamRegs.initial, defined := true }

/-- `INIT` (R128). Under an illegal configuration it completes, raises nothing, and leaves the ten derived and stream
registers without a value (R129; assumption log 1). -/
def execInit (s : State) : Host.Outcome State Fault Refusal :=
  if CfgLegal s.config then .next (quiet (startStream s))
  else .next (quiet (undefineRegisters s))

end Sys2Proof.Machine
end

