-- ==== Sys2Proof/Machine/Detector.lean ====
section
/-! DEFINITION. `DET.UPD`, the first micro-operation of `STEP` (spec/41_detector.md). -/

namespace Sys2Proof.Machine

/-- `mag * 2^16`, the magnitude of the sample in PEAK's format; abs(−32768) = 32768 (R151). -/
def magnitudeFx (sample : Int) : Nat := sample.natAbs * 2 ^ Config.peakFrac

/-- One decay: `(PEAK * 19) div 20` (R153). -/
def decay (peak : Nat) : Nat := peak * Config.decayNum / Config.decayDen

/-- `DET.UPD(sample)`: the new content of PEAK (R150, R152, R153). It reads PEAK and the sample alone (R154). -/
def detUpd (sample : Int) (peak : Word) : Word :=
  BitVec.ofNat 32
    (if magnitudeFx sample > peak.toNat then magnitudeFx sample else decay peak.toNat)

end Sys2Proof.Machine
end

