-- ==== Sys2Proof/Machine/Flags.lean ====
section
/-! DEFINITION. The block has no stored flags and no condition codes; it has the two combinational predicates of the
hysteresis comparator (spec/10_state.md rule R38). Both are strict, compare in PEAK's format, and are read by
`ASR.TRN` alone. -/

namespace Sys2Proof.Machine

/-- `above_hi := PEAK > RATE_HIGH * 2^16` (R38). -/
def aboveHi (rateHigh : Amp) (peak : Word) : Bool :=
  decide (peak.toNat > rateHigh.toNat * 2 ^ Config.peakFrac)

/-- `below_lo := PEAK < RATE_LOW * 2^16` (R38). -/
def belowLo (rateLow : Amp) (peak : Word) : Bool :=
  decide (peak.toNat < rateLow.toNat * 2 ^ Config.peakFrac)

end Sys2Proof.Machine
end

