-- ==== Sys2Proof/Machine/Asr.lean ====
section
/-! DEFINITION. `ASR.TRN`, the second micro-operation of `STEP`: the lifecycle state machine
(spec/42_asr_state_machine.md). -/

namespace Sys2Proof.Machine

/-- `NA` or `NR`: the sample count, with a count of 0 taken as 1 (R176). -/
def rampLength (count : Word) : Nat := max count.toNat 1

/-- `ASR.TRN`: the one row of the transition table that belongs to the state held at the start of the `STEP`, on the
PEAK that `DET.UPD` has just written (R171 to R175). -/
def asrTrn (d : DerivedRegs) (r : StreamRegs) : StreamRegs :=
  match r.state with
  | .off =>
    if aboveHi d.rateHigh r.peak then { r with state := .attack, phase := 0, counter := 0 } else r
  | .attack =>
    { r with
      counter := BitVec.ofNat 32 (r.counter.toNat + 1)
      state := if r.counter.toNat + 1 = rampLength d.attackSamples then .sustain else .attack }
  | .sustain =>
    if belowLo d.rateLow r.peak then { r with state := .release, counter := 0 } else r
  | .release =>
    { r with
      counter := BitVec.ofNat 32 (r.counter.toNat + 1)
      state := if r.counter.toNat + 1 = rampLength d.releaseSamples then .off else .release }

end Sys2Proof.Machine
end

