-- ==== Sys2Proof/Machine/Sine.lean ====
section
/-! DEFINITION. The sine unit `SINQ` and the envelope unit `ENVQ` (spec/43_oscillator_synthesis.md rules R193, R195),
with this hardware's values: `rnd(32768 * sin(p / 2^29))` and `rnd(32768 * sin((π/2) * k / N))`.

The real sine is taken as the first 31 terms of its power series, evaluated exactly as a fraction of integers. For an
angle in [0, 2π] the terms left out are below 2^-120, so the scaled value is off by less than 2^-100; no phase word and
no pair (k, N) has a scaled sine that close to a half-integer, so the rounded value is the rounded real sine.
Assumption logs 3 and 4. -/

namespace Sys2Proof.Machine

/-- The numerator of the series of sin(a / b) to the power 2n + 1, over `sineDen b n`. -/
def sineNum (a b : Nat) : Nat → Int
  | 0 => a
  | n + 1 =>
    sineNum a b n * ((b * b * ((2 * n + 2) * (2 * n + 3)) : Nat) : Int)
      + (if n % 2 = 0 then -1 else 1) * ((a ^ (2 * n + 3) : Nat) : Int)

/-- The common denominator b^(2n+1) * (2n+1)! of the series to the power 2n + 1. -/
def sineDen (b : Nat) : Nat → Nat
  | 0 => b
  | n + 1 => sineDen b n * (b * b * ((2 * n + 2) * (2 * n + 3)))

/-- The power of the last term kept is 2 * 30 + 1. -/
def sineTerms : Nat := 30

/-- `rnd(32768 * sin(a / b))`, the nearest integer: floor(x + 1/2), since no tie occurs (R14, R193, R195). -/
def sineRounded (a b : Nat) : Int :=
  (2 * (Config.one : Int) * sineNum a b sineTerms + (sineDen b sineTerms : Int))
    / (2 * (sineDen b sineTerms : Int))

/-- `SINQ(p)`, the sine of the phase word `p`, −32768 .. 32768 (R193). -/
def sinq (p : Nat) : Int := sineRounded p (2 ^ Config.phaseFrac)

/-- π * 2^160, rounded down (general knowledge, as R12's digits are; assumption log 4). -/
def piFx160 : Nat := 4591442807048218921384805199743311128454155024418

/-- `ENVQ(k, N)`, the k-th of N values of the quarter sine, 0 .. 32768 (R195). -/
def envq (k n : Nat) : Nat := (sineRounded (piFx160 * k) (2 ^ 161 * n)).toNat

end Sys2Proof.Machine
end

