-- ==== Sys2Proof/Machine/Synth.lean ====
section
/-! DEFINITION. `GEN.SYN` and `OSC.ADV`, the third and fourth micro-operations of `STEP`
(spec/43_oscillator_synthesis.md). Both read the registers as `ASR.TRN` has just left them. -/

namespace Sys2Proof.Machine

/-- The envelope value `E` of a sample, 0 .. 32768; 1.0 in SUSTAIN, and unused in OFF (R190, R194). -/
def envelope (d : DerivedRegs) (r : StreamRegs) : Nat :=
  match r.state with
  | .off => 0
  | .attack => envq r.counter.toNat (rampLength d.attackSamples)
  | .sustain => Config.one
  | .release =>
    envq (rampLength d.releaseSamples - 1 - r.counter.toNat) (rampLength d.releaseSamples)

/-- The multiplier: the exact triple product, truncated once toward zero (R197). -/
def multiplier (s : Int) (e v : Nat) : Int := tz (s * (e : Int) * (v : Int)) (2 ^ Config.outShift)

/-- `GEN.SYN`: the output sample of the `STEP` (R190). -/
def genSyn (d : DerivedRegs) (r : StreamRegs) : Int :=
  if r.state = .off then 0
  else multiplier (sinq r.phase.toNat) (envelope d r) d.outVolume.toNat

/-- The phase after one advance: one conditional subtraction, when the sum exceeds `TWO_PI_FX` (R199, R200). -/
def advancePhase (phase angleStep : Nat) : Nat :=
  if phase + angleStep > Config.twoPiFx then phase + angleStep - Config.twoPiFx
  else phase + angleStep

/-- `OSC.ADV`: the phase moves in every state but OFF (R199, R201). -/
def oscAdv (d : DerivedRegs) (r : StreamRegs) : StreamRegs :=
  if r.state = .off then r
  else { r with phase := BitVec.ofNat 32 (advancePhase r.phase.toNat d.angleStep.toNat) }

end Sys2Proof.Machine
end

