-- ==== Sys2Proof/Machine/SampleCommands.lean ====
section
/-! DEFINITION. `STEP` and `NOP` (spec/44_step.md). -/

namespace Sys2Proof.Machine

/-- The stream registers after `DET.UPD` and `ASR.TRN`: what `GEN.SYN` reads (R203, R220). -/
def afterTransition (d : DerivedRegs) (sample : Int) (r : StreamRegs) : StreamRegs :=
  asrTrn d { r with peak := detUpd sample r.peak }

/-- The output sample of a `STEP` (R190, R220). -/
def stepOutput (d : DerivedRegs) (sample : Int) (r : StreamRegs) : Int :=
  genSyn d (afterTransition d sample r)

/-- The stream registers after a `STEP` (R199, R220). -/
def stepStream (d : DerivedRegs) (sample : Int) (r : StreamRegs) : StreamRegs :=
  oscAdv d (afterTransition d sample r)

/-- `STEP sample`: `DET.UPD`, `ASR.TRN`, `GEN.SYN`, `OSC.ADV` in this order, one sample out (R220). While the derived
and stream registers have no value, they and the output sample stay without one (R129, R222; assumption log 1). -/
def execStep (sample : Int) (s : State) : Host.Outcome State Fault Refusal :=
  if s.defined then
    .next (sampleOut (stepOutput s.derived sample s.stream)
      { s with stream := stepStream s.derived sample s.stream })
  else .next (driveFreeSample (undefineRegisters s))

/-- `NOP`: no register changes, `out_valid` is not asserted (R221). -/
def execNop (s : State) : Host.Outcome State Fault Refusal := .next (quiet s)

end Sys2Proof.Machine
end

