-- ==== Sys2Proof/Machine/Dispatch.lean ====
section
/-! DEFINITION. One arm per command, each a direct call of its meaning. -/

namespace Sys2Proof.Machine

def exec (i : Instr) (s : State) : Host.Outcome State Fault Refusal :=
  match i with
  | .nop => Sys2Proof.Machine.execNop s
  | .setatk ms => Sys2Proof.Machine.execSetatk ms s
  | .setrel ms => Sys2Proof.Machine.execSetrel ms s
  | .settone hz => Sys2Proof.Machine.execSettone hz s
  | .setrate hz => Sys2Proof.Machine.execSetrate hz s
  | .sethi pct => Sys2Proof.Machine.execSethi pct s
  | .setlo pct => Sys2Proof.Machine.execSetlo pct s
  | .setvol pct => Sys2Proof.Machine.execSetvol pct s
  | .init => Sys2Proof.Machine.execInit s
  | .step sample => Sys2Proof.Machine.execStep sample s

end Sys2Proof.Machine
end

