-- ==== Sys2Proof/Machine/Moment.lean ====
section
/-! DEFINITION. One moment between two commands: what the input ports drive takes effect (spec/20_memory.md rules R62,
R63; spec/60_exceptions.md rules R243, R251). -/

namespace Sys2Proof.Machine

/-- A command word is executed: its command runs, and a reserved one is refused (R95, R96). -/
def runWord (w : CmdWord) (s : State) : Host.Outcome State Fault Refusal :=
  match decode w with
  | .ok i => exec i s
  | .error (.reservedOpcode op) => .refused (.reservedOpcode op)

/-- What the ports drive takes effect: `rst` wins over a command presented with it (R243), a command accepted is
executed whole (R62), and otherwise the block is idle with all registers held (R251). -/
def drive (p : PortInput) (s : State) : Host.Outcome State Fault Refusal :=
  if p.rst then .next (takeReset s)
  else
    match acceptedWord p with
    | some w => runWord w s
    | none => .next (quiet s)

/-- The next moment is the first entry of what the host drives; where the host drives nothing more the block is idle
(R251, R281). -/
def nextMoment (s : State) : Host.Outcome State Fault Refusal :=
  match s.portIn with
  | [] => .next (quiet s)
  | p :: rest => drive p { s with portIn := rest }

/-- The host presents, in the next moment, the word whose bits are `w` (bit 0 its least significant bit, the bits above
`nbits` 0). -/
def presentTableWord (s : State) (nbits w : Nat) : State :=
  { s with portIn := PortInput.present (BitVec.ofNat 36 (w % 2 ^ nbits)) :: s.portIn }

end Sys2Proof.Machine
end

