-- ==== Sys2Proof/Listing.lean ====
section
/-! DEFINITION. The listing of spec/44_step.md rule R220 written out on integers of unbounded width (spec/00_scope.md
rule R13), apart from the machine: it shares only `SINQ`, `ENVQ`, `tz` and the constants with it. A claim compares the
machine's words with it. -/

namespace Sys2Proof.Listing

open Sys2Proof.Machine (Lifecycle)

/-- The four stream-state quantities as integers. -/
structure Quantities where
  peak : Nat
  state : Lifecycle
  counter : Nat
  phase : Nat
  deriving DecidableEq, Repr

/-- The derived parameters as integers. -/
structure Parameters where
  attackSamples : Nat
  releaseSamples : Nat
  rateHigh : Nat
  rateLow : Nat
  outVolume : Nat
  angleStep : Nat
  deriving DecidableEq, Repr

/-- Part 1 of the listing. -/
def part1 (x : Int) (q : Quantities) : Quantities :=
  let a := x.natAbs * 2 ^ 16
  { q with peak := if a > q.peak then a else q.peak * 19 / 20 }

/-- Part 2 of the listing. -/
def part2 (p : Parameters) (q : Quantities) : Quantities :=
  let na := max p.attackSamples 1
  let nr := max p.releaseSamples 1
  match q.state with
  | .off => if q.peak > p.rateHigh * 2 ^ 16 then { q with state := .attack, phase := 0, counter := 0 } else q
  | .attack => { q with counter := q.counter + 1, state := if q.counter + 1 = na then .sustain else .attack }
  | .sustain => if q.peak < p.rateLow * 2 ^ 16 then { q with state := .release, counter := 0 } else q
  | .release => { q with counter := q.counter + 1, state := if q.counter + 1 = nr then .off else .release }

/-- Part 3 of the listing: the output sample. -/
def part3 (p : Parameters) (q : Quantities) : Int :=
  let na := max p.attackSamples 1
  let nr := max p.releaseSamples 1
  match q.state with
  | .off => 0
  | .attack => Machine.tz (Machine.sinq q.phase * Machine.envq q.counter na * p.outVolume) (2 ^ 30)
  | .sustain => Machine.tz (Machine.sinq q.phase * 32768 * p.outVolume) (2 ^ 30)
  | .release => Machine.tz (Machine.sinq q.phase * Machine.envq (nr - 1 - q.counter) nr * p.outVolume) (2 ^ 30)

/-- Part 4 of the listing. -/
def part4 (p : Parameters) (q : Quantities) : Quantities :=
  match q.state with
  | .off => q
  | _ =>
    let sum := q.phase + p.angleStep
    { q with phase := if sum > 3373259426 then sum - 3373259426 else sum }

/-- The whole listing: the new quantities and the output sample. -/
def run (p : Parameters) (x : Int) (q : Quantities) : Quantities × Int :=
  let r := part2 p (part1 x q)
  (part4 p r, part3 p r)

/-- The machine's stream registers, read as integers. -/
def quantitiesOf (r : Machine.StreamRegs) : Quantities :=
  { peak := r.peak.toNat, state := r.state, counter := r.counter.toNat, phase := r.phase.toNat }

/-- The machine's derived registers, read as integers. -/
def parametersOf (d : Machine.DerivedRegs) : Parameters :=
  { attackSamples := d.attackSamples.toNat
    releaseSamples := d.releaseSamples.toNat
    rateHigh := d.rateHigh.toNat
    rateLow := d.rateLow.toNat
    outVolume := d.outVolume.toNat
    angleStep := d.angleStep.toNat }

end Sys2Proof.Listing
end

