-- ==== Sys2Proof/Machine/Assembler.lean ====
section
/-! DEFINITION. The assembler text of spec/30_encoding.md rules R100 and R101: one command or pseudo-instruction a line,
taken to what the host drives on the ports. It stands outside the block; no step calls it. -/

namespace Sys2Proof.Machine

/-! ## The pseudo-instructions (R101) -/

/-- `config <atk> <rel> <tone> <rate> <hi> <lo> <vol>`: eight commands, in this order (R101). -/
def configCommands (atk rel tone rate hi lo vol : Nat) : List Instr :=
  [.setatk atk, .setrel rel, .settone tone, .setrate rate, .sethi hi, .setlo lo, .setvol vol, .init]

/-- `feed <s0> <s1> ... <sk>`: one `STEP` for each sample (R101). -/
def feedCommands (samples : List Int) : List Instr := samples.map .step

/-- `rep <count> <s>`: `STEP s`, `count` times (R101). -/
def repCommands (count : Nat) (sample : Int) : List Instr := List.replicate count (.step sample)

/-- What a line stands for: command words, and the pin event `rst` (R101). -/
inductive AsmItem where
  | command (i : Instr)
  | rst
  deriving DecidableEq, Repr

/-- The operand of a command lies in its range (R100). -/
def AsmItem.inRange : AsmItem → Bool
  | .command i => i.wellFormed
  | .rst => true

/-- What the host drives for an item (R62, R90, R101). -/
def AsmItem.drives : AsmItem → PortInput
  | .command i => PortInput.present (encode i)
  | .rst => PortInput.resetPulse

/-! ## The text (R100) -/

/-- The line up to its comment, which `;` starts. -/
def stripComment (line : List Char) : List Char := line.takeWhile (· != ';')

/-- The words of a line, its letters in lower case; `word` holds the letters of the word begun. -/
def tokensFrom (word : List Char) : List Char → List (List Char)
  | [] => if word = [] then [] else [word.reverse]
  | c :: rest =>
    if c = ' ' ∨ c = '\t' then
      if word = [] then tokensFrom [] rest else word.reverse :: tokensFrom [] rest
    else tokensFrom (c.toLower :: word) rest

/-- The words of a line without its comment. -/
def tokens (line : List Char) : List (List Char) := tokensFrom [] (stripComment line)

/-- A digit of the base given, 10 or 16. -/
def digitOf (base : Nat) (c : Char) : Option Nat :=
  let n := c.toNat
  if 48 ≤ n ∧ n ≤ 57 then some (n - 48)
  else if base = 16 ∧ 97 ≤ n ∧ n ≤ 102 then some (n - 87)
  else none

/-- The number of a row of digits, after the digits read so far. -/
def digitsValue (base read : Nat) : List Char → Option Nat
  | [] => some read
  | c :: rest =>
    match digitOf base c with
    | some d => digitsValue base (base * read + d) rest
    | none => none

/-- A number without a sign: decimal, or hexadecimal with `0x`. -/
def unsignedNumber : List Char → Option Nat
  | '0' :: 'x' :: d :: rest => digitsValue 16 0 (d :: rest)
  | d :: rest => digitsValue 10 0 (d :: rest)
  | [] => none

/-- A number, with an optional minus sign. -/
def number : List Char → Option Int
  | '-' :: rest => (unsignedNumber rest).map fun n => -(n : Int)
  | word => (unsignedNumber word).map fun n => (n : Int)

/-- The operands of a line; none where one of them is no number. -/
def numbers : List (List Char) → Option (List Int)
  | [] => some []
  | w :: rest =>
    match number w, numbers rest with
    | some n, some ns => some (n :: ns)
    | _, _ => none

/-- A line with one unsigned operand. -/
def oneValue (mk : Nat → Instr) : List Int → Option (List AsmItem)
  | [n] => if 0 ≤ n then some [.command (mk n.toNat)] else none
  | _ => none

/-- A line without operands. -/
def noOperand (item : AsmItem) : List Int → Option (List AsmItem)
  | [] => some [item]
  | _ => none

/-- The items of a mnemonic and its operands, before their ranges are looked at (R100, R101). -/
def itemsOf (mnemonic : List Char) (ops : List Int) : Option (List AsmItem) :=
  if mnemonic = ['n', 'o', 'p'] then noOperand (.command .nop) ops
  else if mnemonic = ['s', 'e', 't', 'a', 't', 'k'] then oneValue .setatk ops
  else if mnemonic = ['s', 'e', 't', 'r', 'e', 'l'] then oneValue .setrel ops
  else if mnemonic = ['s', 'e', 't', 't', 'o', 'n', 'e'] then oneValue .settone ops
  else if mnemonic = ['s', 'e', 't', 'r', 'a', 't', 'e'] then oneValue .setrate ops
  else if mnemonic = ['s', 'e', 't', 'h', 'i'] then oneValue .sethi ops
  else if mnemonic = ['s', 'e', 't', 'l', 'o'] then oneValue .setlo ops
  else if mnemonic = ['s', 'e', 't', 'v', 'o', 'l'] then oneValue .setvol ops
  else if mnemonic = ['i', 'n', 'i', 't'] then noOperand (.command .init) ops
  else if mnemonic = ['s', 't', 'e', 'p'] then
    match ops with
    | [x] => some [.command (.step x)]
    | _ => none
  else if mnemonic = ['r', 's', 't'] then noOperand .rst ops
  else if mnemonic = ['f', 'e', 'e', 'd'] then
    match ops with
    | [] => none
    | xs => some ((feedCommands xs).map .command)
  else if mnemonic = ['r', 'e', 'p'] then
    match ops with
    | [n, x] => if 0 ≤ n then some ((repCommands n.toNat x).map .command) else none
    | _ => none
  else if mnemonic = ['c', 'o', 'n', 'f', 'i', 'g'] then
    match ops with
    | [a, r, t, f, h, l, v] =>
      if 0 ≤ a ∧ 0 ≤ r ∧ 0 ≤ t ∧ 0 ≤ f ∧ 0 ≤ h ∧ 0 ≤ l ∧ 0 ≤ v then
        some ((configCommands a.toNat r.toNat t.toNat f.toNat h.toNat l.toNat v.toNat).map .command)
      else none
    | _ => none
  else none

/-- The items of a line: none of them for a blank line, and an assembler error (`none`) for anything R100 and R101 do
not allow. The ranges of R100 are those of commands, and they are looked at in the commands that the line expands to.
DESIGN CHOICE (assumption log 11): so `rep 0 <s>`, which expands to no command, is accepted whatever number <s> is. -/
def assembleLine (line : List Char) : Option (List AsmItem) :=
  match tokens line with
  | [] => some []
  | mnemonic :: ops =>
    match numbers ops with
    | none => none
    | some ns =>
      match itemsOf mnemonic ns with
      | none => none
      | some items => if items.all AsmItem.inRange then some items else none

/-- What the host drives for a text, line by line; an error in a line is an error of the text. -/
def assemble : List (List Char) → Option (List PortInput)
  | [] => some []
  | line :: rest =>
    match assembleLine line, assemble rest with
    | some items, some more => some (items.map AsmItem.drives ++ more)
    | _, _ => none

end Sys2Proof.Machine
end

