-- ==== Sys2Proof/Safety.lean ====
section
/-! DEFINITION. The terms claims use: the invariants of spec/10_state.md rules R39 to R42 with the bound of R33, runs of
commands (spec/20_memory.md rule R72), and the states a host can bring the machine to. -/

namespace Sys2Proof

/-- The command is a `STEP`. -/
def Instr.isStep : Instr → Bool
  | .step _ => true
  | _ => false

end Sys2Proof

namespace Sys2Proof.Machine

/-- PEAK is at most 32768 * 2^16 (R42). -/
abbrev PeakBounded (s : State) : Prop := s.stream.peak.toNat ≤ 32768 * 2 ^ 16

/-- PHASE is at most `TWO_PI_FX` (R37, R40). -/
abbrev PhaseBounded (s : State) : Prop := s.stream.phase.toNat ≤ Config.twoPiFx

/-- COUNTER counts a sample of the ramp it is in (R41, R181). -/
abbrev CounterBounded (s : State) : Prop :=
  (s.stream.state = .attack → s.stream.counter.toNat < max s.derived.attackSamples.toNat 1) ∧
  (s.stream.state = .release → s.stream.counter.toNat < max s.derived.releaseSamples.toNat 1)

/-- ANGLE_STEP is below `TWO_PI_FX` (R33, R135). -/
abbrev AngleStepBounded (s : State) : Prop := s.derived.angleStep.toNat < Config.twoPiFx

/-- The invariants, "provided no `UNDEFINED` result has occurred" (spec/10_state.md section 6). -/
structure Inv (s : State) : Prop where
  peak : s.defined = true → PeakBounded s
  phase : s.defined = true → PhaseBounded s
  counter : s.defined = true → CounterBounded s
  angleStep : s.defined = true → AngleStepBounded s

/-- The derived registers, where they have a value, are those `INIT` computes from some one legal configuration (R120,
R129). -/
abbrev DerivedFromLegal (s : State) : Prop :=
  s.defined = true → ∃ c : ConfigRegs, CfgLegal c ∧ s.derived = derive c

/-- The states a host can bring the machine to from reset by driving the ports, whatever it drives. -/
inductive Reachable : State → Prop where
  | reset : Reachable State.reset
  | present {s : State} (inputs : List PortInput) : Reachable s → Reachable { s with portIn := inputs }
  | step {s t : State} : Reachable s → step s = .next t → Reachable t

/-- A sequence of commands executed one after another: the fold of the command rules (R72). -/
def runCommands : List Instr → State → Host.Outcome State Fault Refusal
  | [], s => .next s
  | i :: rest, s =>
    match exec i s with
    | .next t => runCommands rest t
    | .fault r => .fault r
    | .refused r => .refused r

/-- Two states agree on every register of R20. -/
def SameRegisters (s t : State) : Prop :=
  s.config = t.config ∧ s.derived = t.derived ∧ s.stream = t.stream

end Sys2Proof.Machine
end

