-- ==== Sys2Proof/Certificates/Slice0/Obligations.lean ====
section
/-! DEFINITION. The statements for the provers, in the order of the spec's files. Where a statement has premises, a
witness in Tests/Slice0.lean meets them. "The state the spec gives a value to" is `s.defined = true`: no `INIT` under an
illegal configuration stands unrepaired (R129, R279). -/

open Sys2Proof Sys2Proof.Machine

/-! ## State, reset and invariants (spec/10_state.md, spec/70_reset_and_hazards.md) -/

/-- R45: the reset table, all 17 registers. -/
def Obligations.ResetRegistersHoldTheTable : Prop :=
  State.reset.config =
    { attackMs := 10#32, releaseMs := 10#32, toneHz := 600#32, samplerateHz := 48000#32,
      hithresPct := 40#32, lothresPct := 10#32, volumePct := 90#32 } ∧
  State.reset.derived =
    { attackSamples := 480#32, releaseSamples := 480#32, rateHigh := 13106#15, rateLow := 3276#15,
      outVolume := 29490#15, angleStep := 42165742#32 } ∧
  State.reset.stream = { peak := 0#32, state := .off, counter := 0#32, phase := 0#32 } ∧
  State.reset.defined = true ∧ CfgLegal State.reset.config ∧ derive State.reset.config = State.reset.derived

/-- The reset event (R270, R243): whatever is presented with `rst` and whatever the registers held, every register
takes its reset value, nothing is output, and the machine waits for the next moment. -/
def Obligations.RstTakesEveryRegisterToReset : Prop :=
  ∀ (s : State) (p : PortInput) (rest : List PortInput), s.portIn = p :: rest → p.rst = true →
    ∃ t, step s = .next t ∧ SameRegisters t State.reset ∧ t.defined = true ∧
      t.outPort = none ∧ t.outStream = [] ∧ t.portIn = rest

/-- R48: no command but `INIT` writes a derived register. -/
def Obligations.DerivedRegistersAreWrittenOnlyByInit : Prop :=
  (∀ (i : Instr) (s : State), i ≠ .init → s.defined = true →
    ∃ t, exec i s = .next t ∧ t.derived = s.derived ∧ t.defined = true) ∧
  (∀ (s : State) (p : PortInput) (rest : List PortInput), s.portIn = p :: rest → p.rst = true →
    ∃ t, step s = .next t ∧ t.derived = derive State.reset.config)

/-- R97: the code of STATE, visible at index 17 of the debug port. -/
def Obligations.StateCodeOnTheDebugPort : Prop :=
  Lifecycle.off.code = 0b00#2 ∧ Lifecycle.attack.code = 0b01#2 ∧ Lifecycle.sustain.code = 0b10#2 ∧
  Lifecycle.release.code = 0b11#2 ∧ (∀ c : BitVec 2, ∃ l : Lifecycle, l.code = c) ∧
  ∀ s : State, (debugRead s 17#5).toNat = s.stream.state.code.toNat

/-- R98: what each index of the debug port shows. -/
def Obligations.DebugPortShowsTheRegisterTable : Prop :=
  ∀ s : State,
    (List.range 32).map (fun n => (debugRead s (BitVec.ofNat 5 n)).toNat) =
      [s.config.attackMs.toNat, s.config.releaseMs.toNat, s.config.toneHz.toNat, s.config.samplerateHz.toNat,
        s.config.hithresPct.toNat, s.config.lothresPct.toNat, s.config.volumePct.toNat, 0,
        s.derived.attackSamples.toNat, s.derived.releaseSamples.toNat, s.derived.rateHigh.toNat,
        s.derived.rateLow.toNat, s.derived.outVolume.toNat, s.derived.angleStep.toNat, 0, 0,
        s.stream.peak.toNat, s.stream.state.code.toNat, s.stream.counter.toNat, s.stream.phase.toNat,
        0, 0, 0, 0, 0, 0, 0, 0, 0, 0, 0, 0]

/-- The invariants hold after reset (section 6). -/
def Obligations.InvariantsHoldAfterReset : Prop := Inv State.reset

/-- The invariants of R39 to R42 and the bound of R33 are kept by every step. -/
def Obligations.InvariantsAreKeptByEveryStep : Prop :=
  ∀ s t : State, Inv s → step s = .next t → Inv t

/-- The invariants hold in every state a host can bring the machine to, whatever it drives on the ports. -/
def Obligations.InvariantsHoldInEveryReachableState : Prop := ∀ s : State, Reachable s → Inv s

/-- That the derived registers, where they have a value (assumption log 1), come from one legal configuration is kept by
every step, and so holds in every reachable state. -/
def Obligations.DerivedRegistersComeFromOneLegalConfiguration : Prop :=
  (∀ s t : State, DerivedFromLegal s → step s = .next t → DerivedFromLegal t) ∧
  ∀ s : State, Reachable s → DerivedFromLegal s

/-- `config 10 10 600 48000 40 10 90` gives the reset registers: on a defined state by section 1 of
70_reset_and_hazards.md, and on a state without values because a legal `INIT` repairs it (R129, R245; assumption log
1). -/
def Obligations.DefaultConfigurationRestoresTheResetRegisters : Prop :=
  ∀ s : State, ∃ t, runCommands (configCommands 10 10 600 48000 40 10 90) s = .next t ∧
    SameRegisters t State.reset ∧ t.defined = true ∧ t.outStream = s.outStream

/-! ## Ports and streams (spec/20_memory.md, spec/60_exceptions.md) -/

/-- R62: a command accepted is executed whole, and nothing else happens in that moment. -/
def Obligations.StepRunsTheCommandAccepted : Prop :=
  ∀ (s : State) (p : PortInput) (rest : List PortInput) (i : Instr),
    s.portIn = p :: rest → p.rst = false → p.cmdValid = true → decode p.cmd = .ok i →
    step s = exec i { s with portIn := rest }

/-- Between commands the block is idle: all registers are held and no sample is given (R251). -/
def Obligations.IdleMomentHoldsEveryRegister : Prop :=
  ∀ s : State, (∀ p ∈ s.portIn.head?, p.rst = false ∧ p.cmdValid = false) →
    step s = .next { s with portIn := s.portIn.tail, outPort := none }

/-- A step stops only where a word with a reserved opcode is accepted (R95, R240): it stops exactly then. -/
def Obligations.OnlyReservedOpcodesStopTheMachine : Prop :=
  ∀ (s : State) (r : Refusal),
    step s = .refused r ↔
      ∃ (p : PortInput) (rest : List PortInput), s.portIn = p :: rest ∧ p.rst = false ∧ p.cmdValid = true ∧
        10 ≤ (opField p.cmd).toNat ∧ r = .reservedOpcode (opField p.cmd)

/-- Every command completes, whatever the operands and the state (R281, R240). -/
def Obligations.EveryCommandCompletes : Prop :=
  ∀ (i : Instr) (s : State), ∃ t, exec i s = .next t ∧ t.portIn = s.portIn

/-- Every `STEP` asserts `out_valid` once and no other command does; the output stream grows by that sample alone. -/
def Obligations.OnlyStepGivesASample : Prop :=
  ∀ (i : Instr) (s : State), ∃ t, exec i s = .next t ∧ (t.outPort.isSome = true ↔ i.isStep = true) ∧
    t.outStream = s.outStream ++ t.outPort.toList

/-- Strict 1:1, in order: a sequence of commands adds one sample to the output stream for each of its `STEP`s, and
leaves the samples driven before where they are. -/
def Obligations.OutputStreamHasOneSampleForEachStep : Prop :=
  ∀ (cs : List Instr) (s : State), ∃ t, runCommands cs s = .next t ∧ s.outStream <+: t.outStream ∧
    t.outStream.length = s.outStream.length + (cs.filter Instr.isStep).length

/-- R66: the framer's contract, low byte first, and the two directions undo each other. -/
def Obligations.SerializedSamplesAreLittleEndian : Prop :=
  (∀ v : Int, SampleInRange v →
    ((frameOut v).1.toNat : Int) = v % 65536 % 256 ∧ ((frameOut v).2.toNat : Int) = v % 65536 / 256 ∧
    frameIn (frameOut v).1 (frameOut v).2 = v) ∧
  (∀ b0 b1 : Byte, frameOut (frameIn b0 b1) = (b0, b1) ∧ SampleInRange (frameIn b0 b1) ∧
    (frameIn b0 b1 - ((b0.toNat : Int) + 256 * (b1.toNat : Int))) % 65536 = 0)

/-- A serialized stream gives back its samples; a partial trailing byte is discarded. -/
def Obligations.PartialTrailingByteIsDiscarded : Prop :=
  ∀ (vs : List Int) (tail : List Byte), (∀ v ∈ vs, SampleInRange v) → tail.length ≤ 1 →
    samplesOfBytes (bytesOfSamples vs ++ tail) = vs

/-- A staged configuration is not seen (R75): a sequence of commands without `INIT` gives the stream, the derived
registers and the output of its `STEP`s alone. -/
def Obligations.StagedConfigurationIsNotSeenBeforeInit : Prop :=
  ∀ (cs : List Instr) (s : State), .init ∉ cs → s.defined = true →
    ∃ t u, runCommands cs s = .next t ∧ runCommands (cs.filter Instr.isStep) s = .next u ∧
      t.stream = u.stream ∧ t.derived = u.derived ∧ t.outStream = u.outStream ∧ t.defined = true

/-! ## Encoding (spec/30_encoding.md) -/

/-- R96: the decoder is total and selects the command by `op` alone; `arg` reaches the command unchanged but for the
bits its format ignores, and the command's operand lies in its range. -/
def Obligations.DecoderSelectsByTheOpcodeAlone : Prop :=
  ∀ w : CmdWord,
    ((opField w).toNat ≤ 9 → ∃ i, decode w = .ok i ∧ i.opcode = opField w ∧
      i.WellFormed ∧ encode i = canonicalWord w) ∧
    (10 ≤ (opField w).toNat → decode w = .error (.reservedOpcode (opField w)))

/-- Decode and encode agree: a command with its operand at any value of its range comes back from its word. -/
def Obligations.DecodeOfEncodeIsTheCommand : Prop :=
  ∀ i : Instr, i.WellFormed → decode (encode i) = .ok i ∧ decodeTableWord 40 (encode i).toNat = some i

/-- R91, R93, and the decoding of R92: the three formats, every argument. -/
def Obligations.FormatsReadTheArgumentField : Prop :=
  ∀ arg : Word,
    decode (0x0#4 ++ arg) = .ok .nop ∧ decode (0x8#4 ++ arg) = .ok .init ∧
    encode .nop = 0x000000000#36 ∧ encode .init = 0x800000000#36 ∧
    decode (0x1#4 ++ arg) = .ok (.setatk arg.toNat) ∧ decode (0x2#4 ++ arg) = .ok (.setrel arg.toNat) ∧
    decode (0x3#4 ++ arg) = .ok (.settone arg.toNat) ∧ decode (0x4#4 ++ arg) = .ok (.setrate arg.toNat) ∧
    decode (0x5#4 ++ arg) = .ok (.sethi arg.toNat) ∧ decode (0x6#4 ++ arg) = .ok (.setlo arg.toNat) ∧
    decode (0x7#4 ++ arg) = .ok (.setvol arg.toNat) ∧
    decode (0x9#4 ++ arg) =
      .ok (.step (if arg.toNat % 65536 < 32768 then (arg.toNat % 65536 : Nat) else (arg.toNat % 65536 : Nat) - 65536)) ∧
    ∀ x : Int, (argField (encode (.step x))).toNat < 2 ^ 16

/-- R99: the two operand forms, with the rule's three examples. -/
def Obligations.OperandForms : Prop :=
  (∀ arg : Word, valueOperand arg = arg.toNat ∧
    sampleOperand arg =
      if arg.toNat % 65536 < 32768 then ((arg.toNat % 65536 : Nat) : Int)
      else ((arg.toNat % 65536 : Nat) : Int) - 65536) ∧
  sampleOperand 0x0000FFFF#32 = -1 ∧ sampleOperand 0x00008000#32 = -32768 ∧ sampleOperand 0xABCD4E20#32 = 20000

/-- Words written out from the tables of R94 and R100 decode to the commands they stand for. -/
def Obligations.SampleWordsDecode : Prop :=
  decode 0x000000000#36 = .ok .nop ∧ decode 0x10000000A#36 = .ok (.setatk 10) ∧
  decode 0x200000000#36 = .ok (.setrel 0) ∧ decode 0x3000003E8#36 = .ok (.settone 1000) ∧
  decode 0x40000BB80#36 = .ok (.setrate 48000) ∧ decode 0x500000096#36 = .ok (.sethi 150) ∧
  decode 0x60000000A#36 = .ok (.setlo 10) ∧ decode 0x700000064#36 = .ok (.setvol 100) ∧
  decode 0x800000000#36 = .ok .init ∧ decode 0x90000FFFF#36 = .ok (.step (-1)) ∧
  decode 0xA00000000#36 = .error (.reservedOpcode 0xA#4)

/-- R101: the pseudo-instructions, from their text: eight words for `config`, one `STEP` a sample for `feed`, `count`
of them for `rep`, the pin event for `rst`. -/
def Obligations.PseudoInstructionsExpand : Prop :=
  (∀ a r t f h l v : Nat, configCommands a r t f h l v =
    [.setatk a, .setrel r, .settone t, .setrate f, .sethi h, .setlo l, .setvol v, .init]) ∧
  (∀ xs : List Int, feedCommands xs = xs.map .step) ∧
  (∀ (n : Nat) (x : Int), repCommands n x = List.replicate n (.step x)) ∧
  itemsOf ['r', 's', 't'] [] = some [.rst] ∧
  (∀ a r t f h l v : Nat, itemsOf ['c', 'o', 'n', 'f', 'i', 'g'] [a, r, t, f, h, l, v] =
    some ((configCommands a r t f h l v).map .command)) ∧
  (∀ (x : Int) (xs : List Int), itemsOf ['f', 'e', 'e', 'd'] (x :: xs) =
    some ((feedCommands (x :: xs)).map .command)) ∧
  (∀ (n : Nat) (x : Int), itemsOf ['r', 'e', 'p'] [n, x] = some ((repCommands n x).map .command)) ∧
  ∀ p : PortInput, AsmItem.rst.drives = p → p.rst = true

/-! ## Configuration commands (spec/40_config_derive.md) -/

/-- The seven `SET*` commands: the value is stored as given, nothing else changes, no sample is given. -/
def Obligations.SetCommandsStageOneRegister : Prop :=
  ∀ (v : Nat) (s : State), ValueInRange v →
    exec (.setatk v) s =
      .next { s with config := { s.config with attackMs := BitVec.ofNat 32 v }, outPort := none } ∧
    exec (.setrel v) s =
      .next { s with config := { s.config with releaseMs := BitVec.ofNat 32 v }, outPort := none } ∧
    exec (.settone v) s =
      .next { s with config := { s.config with toneHz := BitVec.ofNat 32 v }, outPort := none } ∧
    exec (.setrate v) s =
      .next { s with config := { s.config with samplerateHz := BitVec.ofNat 32 v }, outPort := none } ∧
    exec (.sethi v) s =
      .next { s with config := { s.config with hithresPct := BitVec.ofNat 32 v }, outPort := none } ∧
    exec (.setlo v) s =
      .next { s with config := { s.config with lothresPct := BitVec.ofNat 32 v }, outPort := none } ∧
    exec (.setvol v) s =
      .next { s with config := { s.config with volumePct := BitVec.ofNat 32 v }, outPort := none } ∧
    (BitVec.ofNat 32 v).toNat = v

/-- `INIT` under a legal configuration (L1 to L4 of R129): the six derived parameters of R130 to R135 as integers, no
bit lost, the initial stream state, and everything else as before. -/
def Obligations.InitComputesTheDerivedParameters : Prop :=
  ∀ s : State,
    1 ≤ s.config.samplerateHz.toNat →
    s.config.toneHz.toNat < s.config.samplerateHz.toNat →
    s.config.attackMs.toNat * s.config.samplerateHz.toNat / 1000 ≤ 2 ^ 32 - 1 →
    s.config.releaseMs.toNat * s.config.samplerateHz.toNat / 1000 ≤ 2 ^ 32 - 1 →
    ∃ t, exec .init s = .next t ∧
      t.derived.attackSamples.toNat = s.config.attackMs.toNat * s.config.samplerateHz.toNat / 1000 ∧
      t.derived.releaseSamples.toNat = s.config.releaseMs.toNat * s.config.samplerateHz.toNat / 1000 ∧
      t.derived.rateHigh.toNat = min 32767 (s.config.hithresPct.toNat * 32767 / 100) ∧
      t.derived.rateLow.toNat = min 32767 (s.config.lothresPct.toNat * 32767 / 100) ∧
      t.derived.outVolume.toNat = min 32767 (s.config.volumePct.toNat * 32767 / 100) ∧
      t.derived.angleStep.toNat = 3373259426 * s.config.toneHz.toNat / s.config.samplerateHz.toNat ∧
      t.derived.angleStep.toNat < 3373259426 ∧
      t.stream = { peak := 0#32, state := .off, counter := 0#32, phase := 0#32 } ∧
      t.config = s.config ∧ t.defined = true ∧ t.outPort = none ∧ t.outStream = s.outStream ∧
      t.portIn = s.portIn ∧ t.freeDraws = s.freeDraws

/-- `INIT` twice in a row is the same as once, and leaves the state that a legal configuration alone decides. -/
def Obligations.InitTwiceIsInitOnce : Prop :=
  ∀ s : State, CfgLegal s.config →
    ∃ t, exec .init s = .next t ∧ exec .init t = .next t ∧
      ∀ u : State, u.config = s.config → ∃ v, exec .init u = .next v ∧ SameRegisters v t

/-- R136: the clamp law, for every 32-bit percent value. -/
def Obligations.PercentIsClampedToTheAmplitudeDomain : Prop :=
  ∀ p : Nat, p < 2 ^ 32 →
    percentToAmp p = min 32767 (p * 32767 / 100) ∧ percentToAmp p ≤ 32767 ∧ (100 ≤ p → percentToAmp p = 32767) ∧
    (∀ q : Nat, p ≤ q → percentToAmp p ≤ percentToAmp q) ∧ p * 32767 < 2 ^ 47

/-- An `INIT` under an illegal configuration completes and leaves the ten registers without a value from then until
`RST` or a legal `INIT`, whatever is executed in between (R129, R279; the model's `defined`, assumption log 1). -/
def Obligations.UndefinedFromAnIllegalInitUntilRepair : Prop :=
  (∀ s : State, ¬ CfgLegal s.config →
    ∃ t, exec .init s = .next t ∧ t.defined = false ∧ t.config = s.config ∧ t.outPort = none ∧
      t.outStream = s.outStream) ∧
  (∀ (i : Instr) (s : State), s.defined = false →
    ∃ t, exec i s = .next t ∧ (t.defined = true ↔ i = .init ∧ CfgLegal s.config)) ∧
  (∀ (s : State) (p : PortInput) (rest : List PortInput), s.portIn = p :: rest → p.rst = true →
    ∃ t, step s = .next t ∧ t.defined = true)

/-- What has no value carries no information: the registers and the sample that a `STEP` leaves in a state without
values depend neither on the sample nor on what the registers held (R16, R129; assumption log 1). -/
def Obligations.ResultsWithoutAValueDependOnNothing : Prop :=
  ∀ (x y : Int) (s u : State), s.defined = false → u.defined = false → s.freeDraws = u.freeDraws →
    ∃ t v, exec (.step x) s = .next t ∧ exec (.step y) u = .next v ∧ t.derived = v.derived ∧
      t.stream = v.stream ∧ t.outPort = v.outPort ∧ t.config = s.config ∧ t.defined = false

/-- `INIT` cuts the tone: the next output is 0, whatever state the tone was in and whatever the sample. -/
def Obligations.InitCutsTheTone : Prop :=
  ∀ (s : State) (x : Int), CfgLegal s.config → SampleInRange x →
    ∃ t u, exec .init s = .next t ∧ t.stream.state = .off ∧ exec (.step x) t = .next u ∧ u.outPort = some 0

/-! ## The detector (spec/41_detector.md) -/

/-- R151, R152, R153: the new PEAK of a `STEP`, as an integer. -/
def Obligations.StepRaisesOrDecaysThePeak : Prop :=
  ∀ (x : Int) (s : State), s.defined = true → SampleInRange x →
    ∃ t, exec (.step x) s = .next t ∧
      (x.natAbs * 2 ^ 16 > s.stream.peak.toNat → t.stream.peak.toNat = x.natAbs * 2 ^ 16) ∧
      (x.natAbs * 2 ^ 16 ≤ s.stream.peak.toNat → t.stream.peak.toNat = s.stream.peak.toNat * 19 / 20)

/-- R156: the decay falls to 0 and stays there, after at most 372 decays, within 20 units of the real sequence. -/
def Obligations.DecayReachesZero : Prop :=
  (∀ p : Nat, decay p ≤ p ∧ (decay p = p ↔ p = 0)) ∧
  decay^[372] (32768 * 2 ^ 16) = 0 ∧ decay^[371] (32768 * 2 ^ 16) ≠ 0 ∧ decay 1 = 0 ∧
  (∀ p : Nat, p ≤ 32768 * 2 ^ 16 → decay^[372] p = 0) ∧
  (∀ p : Nat, (decay p : ℚ) ≥ (p : ℚ) * (19 / 20) - 19 / 20) ∧
  ∀ p n : Nat, (decay^[n] p : ℚ) ≤ (p : ℚ) * (19 / 20) ^ n ∧ (p : ℚ) * (19 / 20) ^ n - decay^[n] p < 20

/-- From any state within the invariants, 372 silent samples bring PEAK to exactly 0, whatever the lifecycle does
meanwhile. -/
def Obligations.SilenceDrainsThePeak : Prop :=
  ∀ s : State, Inv s → s.defined = true →
    ∃ t, runCommands (repCommands 372 0) s = .next t ∧ t.stream.peak = 0 ∧ t.derived = s.derived

/-- The detector's peak depends on no configuration and no derived register (R154). -/
def Obligations.PeakDoesNotDependOnConfiguration : Prop :=
  ∀ (xs : List Int) (s u : State), s.defined = true → u.defined = true → s.stream.peak = u.stream.peak →
    ∃ t v, runCommands (feedCommands xs) s = .next t ∧ runCommands (feedCommands xs) u = .next v ∧
      t.stream.peak = v.stream.peak

/-! ## The lifecycle state machine (spec/42_asr_state_machine.md) -/

/-- The cycle OFF → ATTACK → SUSTAIN → RELEASE → OFF: a `STEP` takes one of its edges or stays (R170). -/
def Obligations.OnlyTheCycleIsTaken : Prop :=
  State.reset.stream.state = .off ∧
  ∀ (x : Int) (s : State), s.defined = true →
    ∃ t, exec (.step x) s = .next t ∧
      (t.stream.state = s.stream.state ∨
        (s.stream.state, t.stream.state) ∈
          [(Lifecycle.off, Lifecycle.attack), (.attack, .sustain), (.sustain, .release), (.release, .off)])

/-- The OFF row (R172), with what `OSC.ADV` makes of the phase afterwards. -/
def Obligations.OffRowTriggersAboveTheUpperThreshold : Prop :=
  ∀ (x : Int) (s : State), s.defined = true → AngleStepBounded s → s.stream.state = .off →
    ∃ t, exec (.step x) s = .next t ∧
      (t.stream.peak.toNat > s.derived.rateHigh.toNat * 2 ^ 16 →
        t.stream.state = .attack ∧ t.stream.counter = 0 ∧ t.stream.phase = s.derived.angleStep) ∧
      (t.stream.peak.toNat ≤ s.derived.rateHigh.toNat * 2 ^ 16 →
        t.stream.state = .off ∧ t.stream.counter = s.stream.counter ∧ t.stream.phase = s.stream.phase)

/-- The ATTACK row (R173), with NA of R176. -/
def Obligations.AttackRowCountsToSustain : Prop :=
  ∀ (x : Int) (s : State), s.defined = true → CounterBounded s → s.stream.state = .attack →
    ∃ t, exec (.step x) s = .next t ∧ t.stream.counter.toNat = s.stream.counter.toNat + 1 ∧
      (s.stream.counter.toNat + 1 = max s.derived.attackSamples.toNat 1 → t.stream.state = .sustain) ∧
      (s.stream.counter.toNat + 1 ≠ max s.derived.attackSamples.toNat 1 → t.stream.state = .attack)

/-- The SUSTAIN row (R174). -/
def Obligations.SustainRowReleasesBelowTheLowerThreshold : Prop :=
  ∀ (x : Int) (s : State), s.defined = true → s.stream.state = .sustain →
    ∃ t, exec (.step x) s = .next t ∧
      (t.stream.peak.toNat < s.derived.rateLow.toNat * 2 ^ 16 →
        t.stream.state = .release ∧ t.stream.counter = 0) ∧
      (s.derived.rateLow.toNat * 2 ^ 16 ≤ t.stream.peak.toNat →
        t.stream.state = .sustain ∧ t.stream.counter = s.stream.counter)

/-- The RELEASE row (R175), with NR of R176; PHASE keeps its value on the way to OFF. -/
def Obligations.ReleaseRowCountsToOff : Prop :=
  ∀ (x : Int) (s : State), s.defined = true → CounterBounded s → s.stream.state = .release →
    ∃ t, exec (.step x) s = .next t ∧ t.stream.counter.toNat = s.stream.counter.toNat + 1 ∧
      (s.stream.counter.toNat + 1 = max s.derived.releaseSamples.toNat 1 →
        t.stream.state = .off ∧ t.stream.phase = s.stream.phase) ∧
      (s.stream.counter.toNat + 1 ≠ max s.derived.releaseSamples.toNat 1 → t.stream.state = .release)

/-- R178: the transition depends on the state, the peak estimate, the counter and the four derived parameters its rows
name, and on nothing else. -/
def Obligations.TransitionDependsOnStatePeakAndCounter : Prop :=
  ∀ (x y : Int) (s u : State), s.defined = true → u.defined = true →
    s.stream.state = u.stream.state → s.stream.counter = u.stream.counter →
    s.derived.attackSamples = u.derived.attackSamples → s.derived.releaseSamples = u.derived.releaseSamples →
    s.derived.rateHigh = u.derived.rateHigh → s.derived.rateLow = u.derived.rateLow →
    ∃ t v, exec (.step x) s = .next t ∧ exec (.step y) u = .next v ∧
      (t.stream.peak = v.stream.peak →
        t.stream.state = v.stream.state ∧ t.stream.counter = v.stream.counter)

/-- R179: while the peak stays between the thresholds, OFF and SUSTAIN are kept, however long the stream. -/
def Obligations.DeadZoneKeepsTheState : Prop :=
  ∀ (xs : List Int) (s t : State), s.defined = true →
    (s.stream.state = .off ∨ s.stream.state = .sustain) →
    (∀ (ys : List Int) (u : State), ys <+: xs → ys ≠ [] → runCommands (feedCommands ys) s = .next u →
      s.derived.rateLow.toNat * 2 ^ 16 ≤ u.stream.peak.toNat ∧
      u.stream.peak.toNat ≤ s.derived.rateHigh.toNat * 2 ^ 16) →
    runCommands (feedCommands xs) s = .next t → t.stream.state = s.stream.state

/-- The attack lasts NA samples, the one that enters it among them, whatever the samples are: after n more `STEP`s the
state is ATTACK with COUNTER n while n is below NA, and SUSTAIN at NA. -/
def Obligations.AttackLastsItsCountOfSamples : Prop :=
  ∀ (x : Int) (s u : State) (xs : List Int), s.defined = true → s.stream.state = .off →
    exec (.step x) s = .next u → u.stream.state = .attack →
    xs.length ≤ max s.derived.attackSamples.toNat 1 →
    ∃ t, runCommands (feedCommands xs) u = .next t ∧ t.stream.counter.toNat = xs.length ∧
      (xs.length < max s.derived.attackSamples.toNat 1 → t.stream.state = .attack) ∧
      (xs.length = max s.derived.attackSamples.toNat 1 → t.stream.state = .sustain)

/-- The release lasts NR samples in the same way, and no sample retriggers within it. -/
def Obligations.ReleaseLastsItsCountOfSamples : Prop :=
  ∀ (x : Int) (s u : State) (xs : List Int), s.defined = true → s.stream.state = .sustain →
    exec (.step x) s = .next u → u.stream.state = .release →
    xs.length ≤ max s.derived.releaseSamples.toNat 1 →
    ∃ t, runCommands (feedCommands xs) u = .next t ∧ t.stream.counter.toNat = xs.length ∧
      (xs.length < max s.derived.releaseSamples.toNat 1 → t.stream.state = .release) ∧
      (xs.length = max s.derived.releaseSamples.toNat 1 → t.stream.state = .off)

/-- R182: in OFF without a trigger a `STEP` moves PEAK alone and gives 0; with an all-zero input and no trigger standing
the generator stays in OFF forever. -/
def Obligations.SilenceStaysOff : Prop :=
  (∀ (x : Int) (s : State), s.defined = true → s.stream.state = .off →
    ∃ t, exec (.step x) s = .next t ∧
      (t.stream.peak.toNat ≤ s.derived.rateHigh.toNat * 2 ^ 16 →
        t.stream = { s.stream with peak := t.stream.peak } ∧ t.outPort = some 0)) ∧
  ∀ (n : Nat) (s : State), s.defined = true → s.stream.state = .off →
    s.stream.peak.toNat ≤ s.derived.rateHigh.toNat * 2 ^ 16 →
    ∃ t, runCommands (repCommands n 0) s = .next t ∧ t.stream.state = .off ∧
      t.stream.counter = s.stream.counter ∧ t.stream.phase = s.stream.phase ∧
      t.stream.peak.toNat ≤ s.stream.peak.toNat ∧
      t.outStream = s.outStream ++ List.replicate n 0

/-! ## Synthesis (spec/43_oscillator_synthesis.md) -/

/-- S1, S2, S3, E1, E2 of R193 and R195: the ends and the ranges of the sine and the envelope units. -/
def Obligations.SineAndEnvelopeStayInRange : Prop :=
  sinq 0 = 0 ∧ sinq 3373259426 = 0 ∧ (∀ p : Nat, p ≤ 3373259426 → -32768 ≤ sinq p ∧ sinq p ≤ 32768) ∧
  ∀ n : Nat, 1 ≤ n → envq 0 n = 0 ∧ ∀ k : Nat, k < n → envq k n ≤ 32768

/-- E3 of R195: the envelope rises. -/
def Obligations.EnvelopeRises : Prop := ∀ k n : Nat, k + 1 < n → envq k n ≤ envq (k + 1) n

/-- `SINQ` is the real sine rounded to the nearest integer: within 1/2 and a margin of 2^-100 for every phase word, and
within 1/2 wherever no half-integer lies within that margin (S4 of R193; assumption log 3). -/
def Obligations.SineIsTheRoundedRealSine : Prop :=
  ∀ p : Nat, p ≤ 3373259426 →
    |(sinq p : ℝ) - 32768 * Real.sin ((p : ℝ) / 2 ^ 29)| < 1 / 2 + 1 / 2 ^ 100 ∧
    ((∀ m : ℤ, 1 / 2 ^ 100 < |32768 * Real.sin ((p : ℝ) / 2 ^ 29) - ((m : ℝ) + 1 / 2)|) →
      |(sinq p : ℝ) - 32768 * Real.sin ((p : ℝ) / 2 ^ 29)| < 1 / 2)

/-- `ENVQ` is the real quarter sine rounded to the nearest integer, in the same sense (E4 of R195; assumption log
4). -/
def Obligations.EnvelopeIsTheRoundedQuarterSine : Prop :=
  ∀ k n : Nat, k < n →
    |(envq k n : ℝ) - 32768 * Real.sin (Real.pi / 2 * (k : ℝ) / (n : ℝ))| < 1 / 2 + 1 / 2 ^ 100 ∧
    ((∀ m : ℤ, 1 / 2 ^ 100 < |32768 * Real.sin (Real.pi / 2 * (k : ℝ) / (n : ℝ)) - ((m : ℝ) + 1 / 2)|) →
      |(envq k n : ℝ) - 32768 * Real.sin (Real.pi / 2 * (k : ℝ) / (n : ℝ))| < 1 / 2)

/-- R198: the output range of the multiplier, and where its output is 0. -/
def Obligations.MultiplierNeedsNoSaturation : Prop :=
  ∀ (s : Int) (e v : Nat), s.natAbs ≤ 32768 → e ≤ 32768 → v ≤ 32767 →
    -32767 ≤ multiplier s e v ∧ multiplier s e v ≤ 32767 ∧
    (s = 0 ∨ e = 0 ∨ v = 0 ∨ (s * e * v).natAbs < 2 ^ 30 → multiplier s e v = 0)

/-- R190: the output sample of a `STEP`, from the state after the transition: the phase read is the one before the
advance, 0 on entry to ATTACK. Only the stream registers and the output change. -/
def Obligations.StepOutputsTheShapedCarrier : Prop :=
  ∀ (x : Int) (s : State), s.defined = true →
    ∃ t, exec (.step x) s = .next t ∧
      t.outPort = some (sampleBits
        (let carrier := sinq (if s.stream.state = .off then 0 else s.stream.phase.toNat)
        let na := max s.derived.attackSamples.toNat 1
        let nr := max s.derived.releaseSamples.toNat 1
        let volume : Int := (s.derived.outVolume.toNat : Int)
        match t.stream.state with
        | .off => 0
        | .attack => tz (carrier * envq t.stream.counter.toNat na * volume) (2 ^ 30)
        | .sustain => tz (carrier * 32768 * volume) (2 ^ 30)
        | .release => tz (carrier * envq (nr - 1 - t.stream.counter.toNat) nr * volume) (2 ^ 30))) ∧
      t.config = s.config ∧ t.derived = s.derived ∧ t.defined = true ∧ t.portIn = s.portIn ∧
      t.freeDraws = s.freeDraws

/-- R199, R200, R201: the phase after a `STEP`, and its range; the sample of the `STEP` was made from the phase before
the advance. -/
def Obligations.PhaseAdvancesWithOneSubtraction : Prop :=
  ∀ (x : Int) (s : State), s.defined = true → PhaseBounded s → AngleStepBounded s →
    ∃ t, exec (.step x) s = .next t ∧ t.stream.phase.toNat ≤ 3373259426 ∧
      (t.stream.state = .off → t.stream.phase = s.stream.phase) ∧
      (t.stream.state ≠ .off →
        let p := (if s.stream.state = .off then 0 else s.stream.phase.toNat) + s.derived.angleStep.toNat
        t.stream.phase.toNat = if p > 3373259426 then p - 3373259426 else p) ∧
      t.outPort = some (sampleBits (genSyn s.derived
        { t.stream with phase := if s.stream.state = .off then 0#32 else s.stream.phase }))

/-- Phase continuity (R204): through a tone of n samples, across ATTACK, SUSTAIN and RELEASE, the phase moves by exactly
n times ANGLE_STEP, less whole turns. -/
def Obligations.PhaseRunsOnThroughTheTone : Prop :=
  ∀ (xs : List Int) (s t : State), s.defined = true → PhaseBounded s → AngleStepBounded s →
    s.stream.state ≠ .off →
    (∀ (ys : List Int) (u : State), ys <+: xs → runCommands (feedCommands ys) s = .next u →
      u.stream.state ≠ .off) →
    runCommands (feedCommands xs) s = .next t →
    ∃ turns : Nat, t.stream.phase.toNat + turns * 3373259426 =
      s.stream.phase.toNat + xs.length * s.derived.angleStep.toNat

/-- R205: for equal counts the release uses the envelope values of the attack in reverse, and ends with 0. -/
def Obligations.ReleaseMirrorsAttack : Prop :=
  ∀ (d : DerivedRegs) (r q : StreamRegs), d.attackSamples = d.releaseSamples →
    r.state = .attack → q.state = .release →
    r.counter.toNat + q.counter.toNat + 1 = max d.attackSamples.toNat 1 →
    envelope d r = envelope d q ∧ (r.counter = 0 → envelope d q = 0 ∧ genSyn d q = 0)

/-! ## `STEP` and `NOP` (spec/44_step.md) -/

/-- R220: the words of the machine follow the listing on integers of unbounded width, for every state within the
invariants; no other register changes. -/
def Obligations.StepFollowsTheListing : Prop :=
  ∀ (x : Int) (s : State), s.defined = true → Inv s → SampleInRange x →
    ∃ t v, exec (.step x) s = .next t ∧
      Listing.run (Listing.parametersOf s.derived) x (Listing.quantitiesOf s.stream) =
        (Listing.quantitiesOf t.stream, v) ∧
      t.outPort = some (sampleBits v) ∧ t.outStream = s.outStream ++ [sampleBits v] ∧
      t.config = s.config ∧ t.derived = s.derived ∧ t.defined = true ∧ t.portIn = s.portIn ∧
      t.freeDraws = s.freeDraws ∧ opField (encode (.step x)) = 0x9#4

/-- R221: `NOP`, the word of zeros, changes no register and gives no sample. -/
def Obligations.NopChangesNothing : Prop :=
  encode .nop = 0x000000000#36 ∧ ∀ s : State, exec .nop s = .next { s with outPort := none }

/-- R222: `STEP` is total within the invariants, gives one sample in −32767 .. 32767, and keeps the invariants. -/
def Obligations.StepIsTotalWithinTheInvariants : Prop :=
  ∀ (x : Int) (s : State), s.defined = true → Inv s → SampleInRange x →
    ∃ t v, exec (.step x) s = .next t ∧ t.defined = true ∧ Inv t ∧ -32767 ≤ v ∧ v ≤ 32767 ∧
      t.outPort = some (sampleBits v) ∧ sext16 (sampleBits v) = v ∧ t.outStream = s.outStream ++ [sampleBits v]

/-- R223: the sample and the new stream state depend on the sample in, the old stream state and the derived registers
alone; not on the configuration registers, nor on how many `NOP`s came before. -/
def Obligations.StepDependsOnStreamAndDerivedRegistersAlone : Prop :=
  ∀ (x : Int) (n : Nat) (s u : State), s.defined = true → u.defined = true →
    s.derived = u.derived → s.stream = u.stream →
    ∃ t v, runCommands (List.replicate n .nop ++ [.step x]) s = .next t ∧ exec (.step x) u = .next v ∧
      t.stream = v.stream ∧ t.outPort = v.outPort ∧ t.derived = v.derived

/-- Samples that are 0 whatever the carrier (R225 a, b, d, e): the sample that triggers, the one that enters OFF, the one
that enters a release of one sample, and every sample at volume 0. -/
def Obligations.BoundarySamplesAreZero : Prop :=
  ∀ (x : Int) (s : State), s.defined = true →
    ∃ t, exec (.step x) s = .next t ∧
      (s.stream.state = .off ∨ t.stream.state = .off ∨ s.derived.outVolume = 0 ∨
        (s.stream.state = .sustain ∧ t.stream.state = .release ∧ s.derived.releaseSamples.toNat ≤ 1) →
        t.outPort = some 0)
end

