-- ==== Sys2Proof/Laws/Decode.lean ====
section
/-! SUPPORT. The two fields of a command word (R90) and what the encoder puts in them. -/

namespace Sys2Proof

/-- The two fields of a word made of an opcode and an argument (R90). -/
theorem opField_append (op : BitVec 4) (arg : Word) : opField (op ++ arg) = op := by
  unfold opField
  apply BitVec.eq_of_toNat_eq
  rw [BitVec.extractLsb'_toNat, BitVec.toNat_append, Nat.shiftRight_eq_div_pow, Nat.shiftLeft_eq, Nat.mul_comm,
    ← Nat.two_pow_add_eq_or_of_lt arg.isLt]
  have h1 := op.isLt
  have h2 := arg.isLt
  omega

theorem argField_append (op : BitVec 4) (arg : Word) : argField (op ++ arg) = arg := by
  unfold argField
  apply BitVec.eq_of_toNat_eq
  rw [BitVec.extractLsb'_toNat, BitVec.toNat_append, Nat.shiftRight_zero, Nat.shiftLeft_eq, Nat.mul_comm,
    ← Nat.two_pow_add_eq_or_of_lt arg.isLt]
  have h2 := arg.isLt
  omega

/-- A word is its two fields (R90). -/
theorem opField_append_argField (w : CmdWord) : opField w ++ argField w = w := by
  unfold opField argField
  apply BitVec.eq_of_toNat_eq
  rw [BitVec.toNat_append, BitVec.extractLsb'_toNat, BitVec.extractLsb'_toNat, Nat.shiftRight_eq_div_pow,
    Nat.shiftRight_zero, Nat.shiftLeft_eq, Nat.mul_comm,
    ← Nat.two_pow_add_eq_or_of_lt (Nat.mod_lt _ (by decide))]
  have := w.isLt
  omega

@[simp] theorem opField_encode (i : Instr) : opField (encode i) = i.opcode := opField_append _ _

@[simp] theorem argField_encode (i : Instr) : argField (encode i) = i.argument := argField_append _ _

end Sys2Proof
end

