-- ==== Sys2Proof/Laws/State.lean ====
section
/-! SUPPORT. One lemma per field per update of State, so that no later proof unfolds a record update. -/

namespace Sys2Proof.Machine

/-! ### `quiet` -/

@[simp] theorem quiet_config (s : State) : (quiet s).config = s.config := rfl
@[simp] theorem quiet_derived (s : State) : (quiet s).derived = s.derived := rfl
@[simp] theorem quiet_stream (s : State) : (quiet s).stream = s.stream := rfl
@[simp] theorem quiet_defined (s : State) : (quiet s).defined = s.defined := rfl
@[simp] theorem quiet_freeDraws (s : State) : (quiet s).freeDraws = s.freeDraws := rfl
@[simp] theorem quiet_portIn (s : State) : (quiet s).portIn = s.portIn := rfl
@[simp] theorem quiet_outPort (s : State) : (quiet s).outPort = none := rfl
@[simp] theorem quiet_outStream (s : State) : (quiet s).outStream = s.outStream := rfl

/-! ### `driveOut` -/

@[simp] theorem driveOut_config (b : SampleBits) (s : State) : (driveOut b s).config = s.config := rfl
@[simp] theorem driveOut_derived (b : SampleBits) (s : State) : (driveOut b s).derived = s.derived := rfl
@[simp] theorem driveOut_stream (b : SampleBits) (s : State) : (driveOut b s).stream = s.stream := rfl
@[simp] theorem driveOut_defined (b : SampleBits) (s : State) : (driveOut b s).defined = s.defined := rfl
@[simp] theorem driveOut_freeDraws (b : SampleBits) (s : State) : (driveOut b s).freeDraws = s.freeDraws := rfl
@[simp] theorem driveOut_portIn (b : SampleBits) (s : State) : (driveOut b s).portIn = s.portIn := rfl
@[simp] theorem driveOut_outPort (b : SampleBits) (s : State) : (driveOut b s).outPort = some b := rfl
@[simp] theorem driveOut_outStream (b : SampleBits) (s : State) : (driveOut b s).outStream = s.outStream ++ [b] := rfl

/-! ### `sampleOut` -/

@[simp] theorem sampleOut_config (v : Int) (s : State) : (sampleOut v s).config = s.config := rfl
@[simp] theorem sampleOut_derived (v : Int) (s : State) : (sampleOut v s).derived = s.derived := rfl
@[simp] theorem sampleOut_stream (v : Int) (s : State) : (sampleOut v s).stream = s.stream := rfl
@[simp] theorem sampleOut_defined (v : Int) (s : State) : (sampleOut v s).defined = s.defined := rfl
@[simp] theorem sampleOut_freeDraws (v : Int) (s : State) : (sampleOut v s).freeDraws = s.freeDraws := rfl
@[simp] theorem sampleOut_portIn (v : Int) (s : State) : (sampleOut v s).portIn = s.portIn := rfl
@[simp] theorem sampleOut_outPort (v : Int) (s : State) : (sampleOut v s).outPort = some (sampleBits v) := rfl
@[simp] theorem sampleOut_outStream (v : Int) (s : State) :
    (sampleOut v s).outStream = s.outStream ++ [sampleBits v] := rfl

/-! ### `setConfig` -/

@[simp] theorem setConfig_config (c : ConfigRegs) (s : State) : (setConfig c s).config = c := rfl
@[simp] theorem setConfig_derived (c : ConfigRegs) (s : State) : (setConfig c s).derived = s.derived := rfl
@[simp] theorem setConfig_stream (c : ConfigRegs) (s : State) : (setConfig c s).stream = s.stream := rfl
@[simp] theorem setConfig_defined (c : ConfigRegs) (s : State) : (setConfig c s).defined = s.defined := rfl
@[simp] theorem setConfig_freeDraws (c : ConfigRegs) (s : State) : (setConfig c s).freeDraws = s.freeDraws := rfl
@[simp] theorem setConfig_portIn (c : ConfigRegs) (s : State) : (setConfig c s).portIn = s.portIn := rfl
@[simp] theorem setConfig_outPort (c : ConfigRegs) (s : State) : (setConfig c s).outPort = none := rfl
@[simp] theorem setConfig_outStream (c : ConfigRegs) (s : State) : (setConfig c s).outStream = s.outStream := rfl

/-! ### `undefineRegisters` -/

@[simp] theorem undefineRegisters_config (s : State) : (undefineRegisters s).config = s.config := rfl
@[simp] theorem undefineRegisters_derived (s : State) : (undefineRegisters s).derived = freeDerived s := rfl
@[simp] theorem undefineRegisters_stream (s : State) : (undefineRegisters s).stream = freeStream s := rfl
@[simp] theorem undefineRegisters_defined (s : State) : (undefineRegisters s).defined = false := rfl
@[simp] theorem undefineRegisters_freeDraws (s : State) : (undefineRegisters s).freeDraws = s.freeDraws + 10 := rfl
@[simp] theorem undefineRegisters_portIn (s : State) : (undefineRegisters s).portIn = s.portIn := rfl
@[simp] theorem undefineRegisters_outPort (s : State) : (undefineRegisters s).outPort = s.outPort := rfl
@[simp] theorem undefineRegisters_outStream (s : State) : (undefineRegisters s).outStream = s.outStream := rfl

/-! ### `driveFreeSample` -/

@[simp] theorem driveFreeSample_config (s : State) : (driveFreeSample s).config = s.config := rfl
@[simp] theorem driveFreeSample_derived (s : State) : (driveFreeSample s).derived = s.derived := rfl
@[simp] theorem driveFreeSample_stream (s : State) : (driveFreeSample s).stream = s.stream := rfl
@[simp] theorem driveFreeSample_defined (s : State) : (driveFreeSample s).defined = s.defined := rfl
@[simp] theorem driveFreeSample_freeDraws (s : State) : (driveFreeSample s).freeDraws = s.freeDraws + 1 := rfl
@[simp] theorem driveFreeSample_portIn (s : State) : (driveFreeSample s).portIn = s.portIn := rfl
@[simp] theorem driveFreeSample_outPort (s : State) :
    (driveFreeSample s).outPort = some ((freeAt s 0).setWidth 16) := rfl
@[simp] theorem driveFreeSample_outStream (s : State) :
    (driveFreeSample s).outStream = s.outStream ++ [(freeAt s 0).setWidth 16] := rfl

/-! ### `startStream` -/

@[simp] theorem startStream_config (s : State) : (startStream s).config = s.config := rfl
@[simp] theorem startStream_derived (s : State) : (startStream s).derived = derive s.config := rfl
@[simp] theorem startStream_stream (s : State) : (startStream s).stream = StreamRegs.initial := rfl
@[simp] theorem startStream_defined (s : State) : (startStream s).defined = true := rfl
@[simp] theorem startStream_freeDraws (s : State) : (startStream s).freeDraws = s.freeDraws := rfl
@[simp] theorem startStream_portIn (s : State) : (startStream s).portIn = s.portIn := rfl
@[simp] theorem startStream_outPort (s : State) : (startStream s).outPort = s.outPort := rfl
@[simp] theorem startStream_outStream (s : State) : (startStream s).outStream = s.outStream := rfl

/-! ### `takeReset` -/

@[simp] theorem takeReset_config (s : State) : (takeReset s).config = State.reset.config := rfl
@[simp] theorem takeReset_derived (s : State) : (takeReset s).derived = State.reset.derived := rfl
@[simp] theorem takeReset_stream (s : State) : (takeReset s).stream = StreamRegs.initial := rfl
@[simp] theorem takeReset_defined (s : State) : (takeReset s).defined = true := rfl
@[simp] theorem takeReset_freeDraws (s : State) : (takeReset s).freeDraws = s.freeDraws := rfl
@[simp] theorem takeReset_portIn (s : State) : (takeReset s).portIn = s.portIn := rfl
@[simp] theorem takeReset_outPort (s : State) : (takeReset s).outPort = none := rfl
@[simp] theorem takeReset_outStream (s : State) : (takeReset s).outStream = [] := rfl

/-! ### The stream registers -/

@[simp] theorem StreamRegs.initial_peak : StreamRegs.initial.peak = 0 := rfl
@[simp] theorem StreamRegs.initial_state : StreamRegs.initial.state = .off := rfl
@[simp] theorem StreamRegs.initial_counter : StreamRegs.initial.counter = 0 := rfl
@[simp] theorem StreamRegs.initial_phase : StreamRegs.initial.phase = 0 := rfl

end Sys2Proof.Machine
end

