-- ==== Sys2Proof/Laws/Ops.lean ====
section
/-! SUPPORT. One lemma for each shared operation that says once everything it can do; later proofs cite these and do not
unfold the operations. -/

namespace Sys2Proof.Machine

/-! ### Integers and samples -/

/-- A magnitude below `b * n` has a quotient below `n` (R14). -/
theorem tz_natAbs (a : Int) (b : Nat) : (tz a b).natAbs = a.natAbs / b := by
  unfold tz
  split
  · rw [Int.natAbs_natCast]; congr 1; omega
  · rw [Int.natAbs_neg, Int.natAbs_natCast]; congr 1; omega

/-- `tz` is odd: the truncation is symmetric about 0 (R14). -/
theorem tz_neg (a : Int) (b : Nat) : tz (-a) b = -tz a b := by
  unfold tz
  rcases lt_trichotomy a 0 with h | rfl | h
  · rw [if_pos (by omega), if_neg (by omega)]; simp
  · simp
  · rw [if_neg (by omega), if_pos (by omega)]; simp

/-- The bits of a sample, as a number (R65). -/
theorem sampleBits_toNat (v : Int) : ((sampleBits v).toNat : Int) = v % 65536 := by
  have h0 : 0 ≤ v % 65536 := Int.emod_nonneg _ (by decide)
  have h1 : v % 65536 < 65536 := Int.emod_lt_of_pos _ (by decide)
  unfold sampleBits
  rw [BitVec.toNat_ofNat, Nat.mod_eq_of_lt (by omega)]
  omega

/-- A sample in range comes back from its bits (R65, R99). -/
theorem sext16_sampleBits {v : Int} (h : SampleInRange v) : sext16 (sampleBits v) = v := by
  have hb := sampleBits_toNat v
  unfold sext16
  obtain ⟨h0, h1⟩ := h
  split <;> omega

/-- A 16-bit code read as a sample and put on a port is the code again (R65). -/
theorem sampleBits_sext16 (b : SampleBits) : sampleBits (sext16 b) = b := by
  apply BitVec.eq_of_toNat_eq
  have h := sampleBits_toNat (sext16 b)
  have hb := b.isLt
  have : sext16 b % 65536 = b.toNat := by
    unfold sext16
    split <;> omega
  omega

/-- A sample read from 16 bits is in range (R65). -/
theorem sext16_inRange (b : SampleBits) : SampleInRange (sext16 b) := by
  have := b.isLt
  unfold sext16 SampleInRange
  split <;> omega

/-! ### Commands complete -/

/-- What each command leaves: the case analysis of `exec`. -/
theorem exec_cases {i : Instr} {s : State} {P : State → Prop} {t : State} (h : exec i s = .next t)
    (nop : i = .nop → P (quiet s))
    (set : ∀ c, i ≠ .nop → i ≠ .init → i.isStep = false → P (setConfig c s))
    (legal : i = .init → CfgLegal s.config → P (quiet (startStream s)))
    (illegal : i = .init → ¬ CfgLegal s.config → P (quiet (undefineRegisters s)))
    (run : ∀ x, i = .step x → s.defined = true →
      P (sampleOut (stepOutput s.derived x s.stream) { s with stream := stepStream s.derived x s.stream }))
    (free : ∀ x, i = .step x → s.defined = false → P (driveFreeSample (undefineRegisters s))) : P t := by
  cases i with
  | nop => cases h; exact nop rfl
  | setatk _ => cases h; exact set _ (by simp) (by simp) rfl
  | setrel _ => cases h; exact set _ (by simp) (by simp) rfl
  | settone _ => cases h; exact set _ (by simp) (by simp) rfl
  | setrate _ => cases h; exact set _ (by simp) (by simp) rfl
  | sethi _ => cases h; exact set _ (by simp) (by simp) rfl
  | setlo _ => cases h; exact set _ (by simp) (by simp) rfl
  | setvol _ => cases h; exact set _ (by simp) (by simp) rfl
  | init =>
    change execInit s = _ at h
    unfold execInit at h
    split at h <;> cases h
    · exact legal rfl ‹_›
    · exact illegal rfl ‹_›
  | step x =>
    change execStep x s = _ at h
    unfold execStep at h
    split at h <;> cases h
    · exact run x rfl ‹_›
    · exact free x rfl (by simpa using ‹¬ s.defined = true›)

/-- What a moment can do: reset, run the command accepted, or pass (R62, R243, R251). -/
theorem drive_cases {p : PortInput} {s t : State} (h : drive p s = .next t) :
    (p.rst = true ∧ t = takeReset s) ∨
    (p.rst = false ∧ p.cmdValid = true ∧ ∃ i, decode p.cmd = .ok i ∧ exec i s = .next t) ∨
    (p.rst = false ∧ p.cmdValid = false ∧ t = quiet s) := by
  unfold drive at h
  cases hr : p.rst
  · right
    simp only [hr, Bool.false_eq_true, if_false, acceptedWord, cmdReady, Bool.not_false, Bool.and_true] at h
    cases hv : p.cmdValid
    · right
      simp only [hv, Bool.false_eq_true, if_false] at h
      cases h
      exact ⟨rfl, rfl, rfl⟩
    · left
      simp only [hv, if_true, runWord] at h
      cases hd : decode p.cmd with
      | ok i => exact ⟨rfl, rfl, i, rfl, by simpa only [hd] using h⟩
      | error e => cases e; simp [hd] at h
  · left
    simp only [hr, if_true] at h
    cases h
    exact ⟨rfl, rfl⟩

/-! ### The micro-operations of `STEP` -/

/-- The magnitude of a sample fits PEAK (R151, R157). -/
theorem magnitudeFx_le {x : Int} (h : SampleInRange x) : magnitudeFx x ≤ 32768 * 2 ^ 16 := by
  obtain ⟨h0, h1⟩ := h
  unfold magnitudeFx
  exact Nat.mul_le_mul_right _ (by omega)

/-- A decay lowers the peak, or keeps 0 (R156 a). -/
theorem decay_le (p : Nat) : decay p ≤ p := by
  unfold decay Config.decayNum Config.decayDen; omega

/-- `DET.UPD` as a number: no bit is lost (R150, R153). -/
theorem detUpd_toNat {x : Int} (h : SampleInRange x) (peak : Word) :
    (detUpd x peak).toNat =
      if magnitudeFx x > peak.toNat then magnitudeFx x else decay peak.toNat := by
  have h1 := magnitudeFx_le h
  have h2 := decay_le peak.toNat
  have h3 := peak.isLt
  unfold detUpd
  rw [BitVec.toNat_ofNat, Nat.mod_eq_of_lt]
  split <;> omega

/-- The one conditional subtraction keeps the phase in its closed range (R200). -/
theorem advancePhase_le {phase step : Nat} (h : phase ≤ Config.twoPiFx) (hs : step < Config.twoPiFx) :
    advancePhase phase step ≤ Config.twoPiFx := by
  unfold advancePhase
  split <;> omega

/-- What `ASR.TRN` can do: one of the eight outcomes of its four rows (R171 to R175). -/
theorem asrTrn_cases (d : DerivedRegs) (r : StreamRegs) :
    (r.state = .off ∧ aboveHi d.rateHigh r.peak = true ∧
      asrTrn d r = { r with state := .attack, phase := 0, counter := 0 }) ∨
    (r.state = .off ∧ aboveHi d.rateHigh r.peak = false ∧ asrTrn d r = r) ∨
    (r.state = .attack ∧ r.counter.toNat + 1 = rampLength d.attackSamples ∧
      asrTrn d r = { r with state := .sustain, counter := BitVec.ofNat 32 (r.counter.toNat + 1) }) ∨
    (r.state = .attack ∧ r.counter.toNat + 1 ≠ rampLength d.attackSamples ∧
      asrTrn d r = { r with counter := BitVec.ofNat 32 (r.counter.toNat + 1) }) ∨
    (r.state = .sustain ∧ belowLo d.rateLow r.peak = true ∧
      asrTrn d r = { r with state := .release, counter := 0 }) ∨
    (r.state = .sustain ∧ belowLo d.rateLow r.peak = false ∧ asrTrn d r = r) ∨
    (r.state = .release ∧ r.counter.toNat + 1 = rampLength d.releaseSamples ∧
      asrTrn d r = { r with state := .off, counter := BitVec.ofNat 32 (r.counter.toNat + 1) }) ∨
    (r.state = .release ∧ r.counter.toNat + 1 ≠ rampLength d.releaseSamples ∧
      asrTrn d r = { r with counter := BitVec.ofNat 32 (r.counter.toNat + 1) }) := by
  rcases r with ⟨peak, state, counter, phase⟩
  cases state
  · cases h : aboveHi d.rateHigh peak <;> simp [asrTrn, h]
  · by_cases h : counter.toNat + 1 = rampLength d.attackSamples <;> simp [asrTrn, h]
  · cases h : belowLo d.rateLow peak <;> simp [asrTrn, h]
  · by_cases h : counter.toNat + 1 = rampLength d.releaseSamples <;> simp [asrTrn, h]

/-- What `OSC.ADV` can do (R199, R201). -/
theorem oscAdv_cases (d : DerivedRegs) (r : StreamRegs) :
    (r.state = .off ∧ oscAdv d r = r) ∨
    (r.state ≠ .off ∧
      oscAdv d r =
        { r with phase := BitVec.ofNat 32 (advancePhase r.phase.toNat d.angleStep.toNat) }) := by
  unfold oscAdv
  by_cases h : r.state = .off <;> simp [h]

/-! ### The derived parameters -/

/-- `OSC.ADV` writes PHASE alone (R199). -/
theorem oscAdv_frame (d : DerivedRegs) (r : StreamRegs) :
    (oscAdv d r).peak = r.peak ∧ (oscAdv d r).state = r.state ∧ (oscAdv d r).counter = r.counter := by
  unfold oscAdv
  split <;> exact ⟨rfl, rfl, rfl⟩

/-- Runs compose: a sequence of commands is run by running its front and then its rest (R72). -/
theorem runCommands_append (cs ds : List Instr) (s t : State) (h : runCommands cs s = .next t) :
    runCommands (cs ++ ds) s = runCommands ds t := by
  induction cs generalizing s with
  | nil => cases h; rfl
  | cons i rest ih =>
    simp only [List.cons_append, runCommands] at h ⊢
    cases hi : exec i s with
    | next u => rw [hi] at h; exact ih u h
    | fault r => rw [hi] at h; cases h
    | refused r => rw [hi] at h; cases h

/-- A percentage stays in the amplitude domain (R136). -/
theorem percentToAmp_le (p : Nat) : percentToAmp p ≤ 32767 := Nat.min_le_left _ _

/-- The clamp leaves no bit to lose (R132). -/
theorem ofNat_percentToAmp_toNat (p : Nat) : (BitVec.ofNat 15 (percentToAmp p)).toNat = percentToAmp p := by
  have := percentToAmp_le p
  rw [BitVec.toNat_ofNat, Nat.mod_eq_of_lt (by omega)]

/-- The derived reset values are what `INIT` computes from the reset configuration (R45, R48). -/
theorem derive_reset : derive State.reset.config = State.reset.derived := by
  simp [derive, State.reset, sampleCount, percentToAmp, angleStepOf, Config.ampMax, Config.twoPiFx]

/-- Under L1 and L2 the phase increment is below one turn (R135). -/
theorem angleStepOf_lt {tone rate : Nat} (h : tone < rate) : angleStepOf tone rate < Config.twoPiFx := by
  unfold angleStepOf
  rw [Nat.div_lt_iff_lt_mul (by omega)]
  exact Nat.mul_lt_mul_of_pos_left h (by decide)

end Sys2Proof.Machine
end

