-- ==== Sys2Proof/Laws/PerInstr.lean ====
section
/-! SUPPORT. Statements for all commands, one lemma per constructor of Instr. -/

namespace Sys2Proof.Laws.EncodedFields

/-- The word of a command holds its opcode in `cmd[35:32]` and its argument in `cmd[31:0]`, and the bits its format
ignores are 0 (R90 to R94). -/
def Statement (i : Instr) : Prop :=
  opField (encode i) = i.opcode ∧ argField (encode i) = i.argument ∧
    i.argument &&& ignoredBits i.opcode = 0

theorem nop : Statement .nop := ⟨opField_encode _, argField_encode _, by decide⟩

/-- A format with no ignored bits (R92). -/
theorem value {i : Instr} (h : ignoredBits i.opcode = 0) : Statement i :=
  ⟨opField_encode _, argField_encode _, by rw [h]; exact BitVec.and_zero⟩

theorem setatk (ms : Nat) : Statement (.setatk ms) := value (by decide : ignoredBits 0x1 = 0)
theorem setrel (ms : Nat) : Statement (.setrel ms) := value (by decide : ignoredBits 0x2 = 0)
theorem settone (hz : Nat) : Statement (.settone hz) := value (by decide : ignoredBits 0x3 = 0)
theorem setrate (hz : Nat) : Statement (.setrate hz) := value (by decide : ignoredBits 0x4 = 0)
theorem sethi (pct : Nat) : Statement (.sethi pct) := value (by decide : ignoredBits 0x5 = 0)
theorem setlo (pct : Nat) : Statement (.setlo pct) := value (by decide : ignoredBits 0x6 = 0)
theorem setvol (pct : Nat) : Statement (.setvol pct) := value (by decide : ignoredBits 0x7 = 0)
theorem init : Statement .init := ⟨opField_encode _, argField_encode _, by decide⟩

/-- A half word has no bit in common with the upper half. -/
theorem and_upperHalf (b : SampleBits) : b.setWidth 32 &&& (0xFFFF : Word) <<< 16 = 0 := by
  apply BitVec.eq_of_getLsbD_eq
  intro i hi
  rw [BitVec.getLsbD_and, BitVec.getLsbD_setWidth, BitVec.getLsbD_shiftLeft]
  by_cases h : i < 16
  · simp [h]
  · simp [BitVec.getLsbD_of_ge b i (by omega)]

/-- The sample stands in `arg[15:0]`, under 16 zeros (R93). -/
theorem step (sample : Int) : Statement (.step sample) := by
  refine ⟨opField_encode _, argField_encode _, ?_⟩
  have hm : ignoredBits 0x9 = (0xFFFF : Word) <<< 16 := by decide
  exact hm ▸ and_upperHalf (Machine.sampleBits sample)

end Sys2Proof.Laws.EncodedFields
end

