-- ==== Sys2Proof/Laws/Sine.lean ====
section
/-! SUPPORT. What the power series of Machine/Sine.lean computes: the exact partial sum of the series of the sine, and
its rounding to the nearest integer. The distance from the partial sum to the real sine is not stated here. -/

namespace Sys2Proof.Machine

theorem sineDen_pos {b : Nat} (hb : 0 < b) (n : Nat) : 0 < sineDen b n := by
  induction n with
  | zero => exact hb
  | succ n ih => exact Nat.mul_pos ih (Nat.mul_pos (Nat.mul_pos hb hb) (Nat.mul_pos (by omega) (by omega)))

/-- The common denominator is b^(2n+1) * (2n+1)!. -/
theorem sineDen_eq (b n : Nat) : sineDen b n = b ^ (2 * n + 1) * (2 * n + 1).factorial := by
  induction n with
  | zero => simp [sineDen]
  | succ n ih =>
    rw [sineDen, ih, show 2 * (n + 1) + 1 = (2 * n + 2) + 1 by ring, Nat.factorial_succ (2 * n + 2),
      Nat.factorial_succ (2 * n + 1)]
    ring

/-- The fraction is the partial sum of the series of sin(a / b) to the power 2n + 1. -/
theorem sineNum_div_sineDen (a b : Nat) (hb : 0 < b) (n : Nat) :
    (sineNum a b n : ℝ) / (sineDen b n : ℝ) =
      ∑ j ∈ Finset.range (n + 1), (-1) ^ j * ((a : ℝ) / b) ^ (2 * j + 1) / ((2 * j + 1).factorial : ℝ) := by
  have hb' : (b : ℝ) ≠ 0 := by exact_mod_cast hb.ne'
  induction n with
  | zero => simp [sineNum, sineDen]
  | succ n ih =>
    rw [Finset.sum_range_succ, ← ih]
    have hd : (sineDen b n : ℝ) ≠ 0 := by exact_mod_cast (sineDen_pos hb n).ne'
    have hf : ((2 * (n + 1) + 1).factorial : ℝ) = (2 * n + 3) * (2 * n + 2) * ((2 * n + 1).factorial : ℝ) := by
      rw [show 2 * (n + 1) + 1 = (2 * n + 2) + 1 by ring, Nat.factorial_succ (2 * n + 2),
        Nat.factorial_succ (2 * n + 1)]
      push_cast
      ring
    have hs : (if n % 2 = 0 then (-1 : ℝ) else 1) = (-1) ^ (n + 1) := by
      split
      · rw [Odd.neg_one_pow (Nat.odd_add_one.mpr (by simpa using Nat.even_iff.mpr ‹_›))]
      · rw [Even.neg_one_pow (Nat.even_add_one.mpr (by simpa [Nat.even_iff] using ‹¬ n % 2 = 0›))]
    have hden : (sineDen b n : ℝ) = (b : ℝ) ^ (2 * n + 1) * ((2 * n + 1).factorial : ℝ) := by
      rw [sineDen_eq]
      push_cast
      ring
    have hfac : ((2 * n + 1).factorial : ℝ) ≠ 0 := by exact_mod_cast (2 * n + 1).factorial_ne_zero
    have h2 : (2 * (n : ℝ) + 2) ≠ 0 := by positivity
    have h3 : (2 * (n : ℝ) + 3) ≠ 0 := by positivity
    simp only [sineNum, sineDen]
    rw [hf]
    push_cast
    rw [hs, hden, div_pow]
    field_simp
    ring

/-- The rounded value is the nearest integer to 32768 times the fraction (R14). -/
theorem sineRounded_bounds (a b : Nat) (hb : 0 < b) :
    (sineRounded a b : ℝ) ≤ 32768 * ((sineNum a b sineTerms : ℝ) / sineDen b sineTerms) + 1 / 2 ∧
    32768 * ((sineNum a b sineTerms : ℝ) / sineDen b sineTerms) + 1 / 2 < sineRounded a b + 1 := by
  have hd := sineDen_pos hb sineTerms
  unfold sineRounded
  generalize sineNum a b sineTerms = u
  generalize sineDen b sineTerms = v at hd
  have hv : (0 : ℝ) < v := by exact_mod_cast hd
  have hv2 : (0 : Int) < 2 * (v : Int) := by omega
  have h1 := Int.ediv_mul_le (2 * (Config.one : Int) * u + v) hv2.ne'
  have h2 := Int.lt_ediv_add_one_mul_self (2 * (Config.one : Int) * u + v) hv2
  generalize (2 * (Config.one : Int) * u + v) / (2 * (v : Int)) = q at h1 h2
  have h1' : (q : ℝ) * (2 * v) ≤ 2 * 32768 * u + v := by exact_mod_cast h1
  have h2' : 2 * 32768 * (u : ℝ) + v < ((q : ℝ) + 1) * (2 * v) := by exact_mod_cast h2
  have e : 32768 * ((u : ℝ) / v) + 1 / 2 = (2 * 32768 * u + v) / (2 * v) := by field_simp
  rw [e, le_div_iff₀ (by positivity), div_lt_iff₀ (by positivity)]
  exact ⟨h1', h2'⟩

end Sys2Proof.Machine
end

