-- ==== Sys2Proof/Tests/Slice0.lean ====
section
/-! SUPPORT. The model's own tests, each with its source in the spec, and the witnesses: for every statement with premises
a concrete state and operands that meet them. -/

namespace Sys2Proof.Tests

open Sys2Proof Sys2Proof.Machine

/-! ## Helpers -/

/-- The derived registers of program P3 (spec/95_test_vectors.md section 2.5). -/
def derivedP3 : DerivedRegs :=
  { attackSamples := 8, releaseSamples := 8, rateHigh := 13106, rateLow := 3276, outVolume := 32767,
    angleStep := 421657428 }

/-- Stream registers written as the spec's vectors write them, with the fields in its order. -/
def streamOf (peak : Nat) (state : Lifecycle) (counter phase : Nat) : StreamRegs :=
  { peak := BitVec.ofNat 32 peak, state := state, counter := BitVec.ofNat 32 counter,
    phase := BitVec.ofNat 32 phase }

/-- The machine with given derived and stream registers, all else as after reset. -/
def machine (d : DerivedRegs) (r : StreamRegs) : State := { State.reset with derived := d, stream := r }

/-- The machine of program P3 with given stream registers. -/
def p3 (peak : Nat) (state : Lifecycle) (counter phase : Nat) : State :=
  machine derivedP3 (streamOf peak state counter phase)

/-- Stream registers as integers. -/
def view (r : StreamRegs) : Nat × Lifecycle × Nat × Nat :=
  (r.peak.toNat, r.state, r.counter.toNat, r.phase.toNat)

/-- Derived registers as integers. -/
def derivedView (d : DerivedRegs) : List Nat :=
  [d.attackSamples.toNat, d.releaseSamples.toNat, d.rateHigh.toNat, d.rateLow.toNat, d.outVolume.toNat,
    d.angleStep.toNat]

/-- Configuration registers as integers. -/
def configView (c : ConfigRegs) : List Nat :=
  [c.attackMs.toNat, c.releaseMs.toNat, c.toneHz.toNat, c.samplerateHz.toNat, c.hithresPct.toNat,
    c.lothresPct.toNat, c.volumePct.toNat]

/-- What is looked at in the state an outcome gives. -/
def seen {α : Type} (f : State → α) : Host.Outcome State Fault Refusal → Option α
  | .next s => some (f s)
  | _ => none

/-- The sample driven, as a signed integer, and the stream registers. -/
def outAndStream (s : State) : Option Int × (Nat × Lifecycle × Nat × Nat) := (s.outPort.map sext16, view s.stream)

/-- A configuration written in the order of `config`. -/
def configOf (a r t f h l v : Nat) : ConfigRegs :=
  { attackMs := BitVec.ofNat 32 a, releaseMs := BitVec.ofNat 32 r, toneHz := BitVec.ofNat 32 t,
    samplerateHz := BitVec.ofNat 32 f, hithresPct := BitVec.ofNat 32 h, lothresPct := BitVec.ofNat 32 l,
    volumePct := BitVec.ofNat 32 v }

/-! ## WellFormed refuses each ill-formed operand (R100) -/

theorem test_setatk_operand_too_large : (Instr.setatk 4294967296).wellFormed = false := by decide
theorem test_setrel_operand_too_large : (Instr.setrel 4294967296).wellFormed = false := by decide
theorem test_settone_operand_too_large : (Instr.settone 4294967296).wellFormed = false := by decide
theorem test_setrate_operand_too_large : (Instr.setrate 4294967296).wellFormed = false := by decide
theorem test_sethi_operand_too_large : (Instr.sethi 4294967296).wellFormed = false := by decide
theorem test_setlo_operand_too_large : (Instr.setlo 4294967296).wellFormed = false := by decide
theorem test_setvol_operand_too_large : (Instr.setvol 4294967296).wellFormed = false := by decide
theorem test_step_operand_out_of_range :
    (Instr.step 32768).wellFormed = false ∧ (Instr.step (-32769)).wellFormed = false := by decide
theorem test_operands_at_the_ends_of_their_ranges :
    (Instr.setatk 4294967295).WellFormed ∧ (Instr.step 32767).WellFormed ∧ (Instr.step (-32768)).WellFormed := by
  decide

/-! ## Decoding: words written out from R94 and R100, one for each command -/

theorem test_decode_nop : decode 0x000000000#36 = .ok .nop := by decide
theorem test_decode_setatk : decode 0x10000000A#36 = .ok (.setatk 10) := by decide
theorem test_decode_setrel : decode 0x200000001#36 = .ok (.setrel 1) := by decide
theorem test_decode_settone : decode 0x3000003E8#36 = .ok (.settone 1000) := by decide
theorem test_decode_setrate : decode 0x40000BB80#36 = .ok (.setrate 48000) := by decide
theorem test_decode_sethi : decode 0x5FFFFFFFF#36 = .ok (.sethi 4294967295) := by decide
theorem test_decode_setlo : decode 0x60000000A#36 = .ok (.setlo 10) := by decide
theorem test_decode_setvol : decode 0x700000064#36 = .ok (.setvol 100) := by decide
/-- `arg` of `INIT` is ignored (R91). -/
theorem test_decode_init_ignores_arg : decode 0x812345678#36 = .ok .init := by decide
/-- `arg[31:16]` of `STEP` is ignored (R93, R99). -/
theorem test_decode_step_ignores_upper_half : decode 0x9ABCD4E20#36 = .ok (.step 20000) := by decide
/-- Bit by bit: op 1001, sixteen ignored bits, sample 1000000000000000 (R93, R99). -/
theorem test_decode_step_lowest_sample :
    decode 0b100100000000000000001000000000000000#36 = .ok (.step (-32768)) := by decide
/-- R95: the first and the last reserved opcode. -/
theorem test_decode_reserved :
    decode 0xA00000000#36 = .error (.reservedOpcode 0xA) ∧
      decode 0xFFFFFFFFF#36 = .error (.reservedOpcode 0xF) := by decide
theorem test_encode_setrate : encode (.setrate 48000) = 0x40000BB80#36 := by decide
theorem test_encode_step : encode (.step (-1)) = 0x90000FFFF#36 := by decide
theorem test_decodeTableWord : decodeTableWord 40 0x900004E20 = some (.step 20000) ∧
    decodeTableWord 40 0xB00000000 = none ∧ decodeTableWord 40 0x1900004E20 = none := by decide

/-! ## The detector (section 2.2) -/

theorem test_peak_rise_is_exact : (detUpd (-20001) 1310720000#32).toNat = 1310785536 := by decide
theorem test_peak_equal_sample_decays : (detUpd 1 65536#32).toNat = 62259 := by decide
theorem test_peak_lowest_sample : (detUpd (-32768) 2147418112#32).toNat = 2147483648 := by decide
theorem test_peak_decay_truncates : (detUpd 0 19#32).toNat = 18 ∧ (detUpd 0 1#32).toNat = 0 := by decide

/-! ## The sine, the envelope and the multiplier (section 2.4) -/

theorem test_sinq_small : sinq 0 = 0 ∧ sinq 1 = 0 ∧ sinq 16384 = 1 := by decide
theorem test_sinq_angles : sinq 536870912 = 27573 ∧ sinq 843314856 = 32768 ∧ sinq 1686629713 = 0 := by decide
theorem test_sinq_negative : sinq 2600220806 = -32488 ∧ sinq 2529944569 = -32768 := by decide
theorem test_sinq_end : sinq 3373259425 = 0 ∧ sinq 3373259426 = 0 := by decide
theorem test_envq_eight :
    (List.range 8).map (envq · 8) = [0, 6393, 12540, 18205, 23170, 27246, 30274, 32138] := by decide
theorem test_envq_exact_half : envq 1 3 = 16384 ∧ envq 0 1 = 0 := by decide
theorem test_envq_long :
    envq 479 480 = 32768 ∧ envq 2147483647 4294967295 = 23170 ∧ envq 4294967294 4294967295 = 32768 := by decide
theorem test_multiplier_truncates_toward_zero :
    multiplier (-1) 32768 32767 = 0 ∧ multiplier (-4277) 32768 32767 = -4276 ∧
      multiplier (-23170) 27246 32767 = -19264 := by decide
theorem test_multiplier_ends :
    multiplier 32768 32768 32767 = 32767 ∧ multiplier (-32768) 32768 32767 = -32767 ∧
      multiplier 32768 32768 1 = 1 := by decide

/-! ## The rows of the transition table (section 2.3) -/

theorem test_off_row_one_bit_above :
    view (asrTrn derivedP3 (streamOf 858914817 .off 5 77)) = (858914817, .attack, 0, 0) := by decide
theorem test_off_row_equal_is_not_above :
    view (asrTrn derivedP3 (streamOf 858914816 .off 5 77)) = (858914816, .off, 5, 77) := by decide
theorem test_attack_row_last :
    view (asrTrn derivedP3 (streamOf 0 .attack 7 77)) = (0, .sustain, 8, 77) := by decide
theorem test_sustain_row_equal_is_not_below :
    view (asrTrn derivedP3 (streamOf 214695936 .sustain 8 77)) = (214695936, .sustain, 8, 77) := by decide
theorem test_sustain_row_one_bit_below :
    view (asrTrn derivedP3 (streamOf 214695935 .sustain 8 77)) = (214695935, .release, 0, 77) := by decide
theorem test_release_row_does_not_retrigger :
    view (asrTrn derivedP3 (streamOf 1966080000 .release 2 77)) = (1966080000, .release, 3, 77) := by decide
/-- A count of 0 acts as 1 (R176). -/
theorem test_zero_attack_lasts_one_sample :
    (asrTrn { derivedP3 with attackSamples := 0 } (streamOf 0 .attack 0 0)).state = .sustain := by decide

/-! ## The phase accumulator (section 2.4) -/

theorem test_phase_equal_to_two_pi_is_kept : advancePhase 2951601998 421657428 = 3373259426 := by decide
theorem test_phase_above_two_pi_wraps :
    advancePhase 2951601999 421657428 = 1 ∧ advancePhase 3373259426 421657428 = 421657428 := by decide

/-! ## One command each -/

/-- R220: the example from reset. -/
theorem test_step_triggers_from_reset :
    seen outAndStream (exec (.step 20000) State.reset) = some (some 0, (1310720000, .attack, 0, 42165742)) := by
  decide
/-- Section 2.5: the seventh row's neighbour, RELEASE with a loud sample. -/
theorem test_step_in_release :
    seen outAndStream (exec (.step 30000) (p3 186640936 .release 2 2951601988)) =
      some (some (-16382), (1966080000, .release, 3, 3373259416)) := by decide
theorem test_nop_holds : seen outAndStream (exec .nop (p3 7 .sustain 3 9)) = some (none, (7, .sustain, 3, 9)) := by
  decide
/-- Section 2.1: `INIT` in mid-tone. -/
theorem test_init_derives_and_restarts :
    seen (fun s => (derivedView s.derived, view s.stream))
      (exec .init { machine derivedP3 (streamOf 1245184000 .attack 1 84331484) with
        config := configOf 10 10 1000 48000 40 10 90 }) =
      some ([480, 480, 13106, 3276, 29490, 70276238], (0, .off, 0, 0)) := by decide
/-- Section 2.1: truncation (7 ms and 3 ms at 44100 Hz), the clamp at 150 %, and 440 Hz at 44100 Hz. -/
theorem test_init_truncates_and_clamps :
    derivedView (derive (configOf 7 3 440 44100 150 33 99)) = [308, 132, 32767, 10813, 32439, 33656103] := by decide
/-- Section 2.1: the largest legal count and the first that does not fit; L1 and L2. -/
theorem test_cfgLegal_edges :
    CfgLegal (configOf 4294967295 0 999 1000 40 10 90) ∧ ¬ CfgLegal (configOf 4294967295 0 999 1001 40 10 90) ∧
      ¬ CfgLegal (configOf 0 0 0 0 40 10 90) ∧ ¬ CfgLegal (configOf 0 0 48000 48000 40 10 90) := by decide
theorem test_setatk : seen (configView ·.config) (exec (.setatk 1) State.reset) =
    some [1, 10, 600, 48000, 40, 10, 90] := by decide
theorem test_setrel : seen (configView ·.config) (exec (.setrel 0) State.reset) =
    some [10, 0, 600, 48000, 40, 10, 90] := by decide
theorem test_settone : seen (configView ·.config) (exec (.settone 1000) State.reset) =
    some [10, 10, 1000, 48000, 40, 10, 90] := by decide
theorem test_setrate : seen (configView ·.config) (exec (.setrate 44100) State.reset) =
    some [10, 10, 600, 44100, 40, 10, 90] := by decide
theorem test_sethi : seen (configView ·.config) (exec (.sethi 4294967295) State.reset) =
    some [10, 10, 600, 48000, 4294967295, 10, 90] := by decide
theorem test_setlo : seen (configView ·.config) (exec (.setlo 20) State.reset) =
    some [10, 10, 600, 48000, 40, 20, 90] := by decide
theorem test_setvol : seen (configView ·.config) (exec (.setvol 100) State.reset) =
    some [10, 10, 600, 48000, 40, 10, 100] := by decide

/-! ## The ports -/

theorem test_step_runs_the_word_presented :
    seen outAndStream (step (State.reset.withFetchWord 40 0x900004E20)) =
      some (some 0, (1310720000, .attack, 0, 42165742)) := by decide
/-- `rst` wins over the command presented with it (R243). -/
theorem test_rst_wins :
    seen outAndStream (step { p3 7 .sustain 3 9 with portIn := [⟨true, true, 0x900004E20#36⟩] }) =
      some (none, (0, .off, 0, 0)) := by decide
theorem test_debug_port_state_code : debugRead (p3 7 .release 3 9) 17 = 3#32 ∧ debugRead (p3 7 .release 3 9) 7 = 0#32 := by
  decide
/-- R66: 0x4E20 and its bytes, and a partial trailing byte (R67). -/
theorem test_framing : samplesOfBytes [0x20, 0x4E, 0xFF, 0xFF, 0x55] = [20000, -1] ∧ frameOut (-32768) = (0x00, 0x80) := by
  decide

/-! ## The assembler (R100, R101) -/

/-- `STEP -1 ; c` -/
theorem test_assemble_step :
    assemble [['S', 't', 'e', 'p', ' ', '-', '1', ' ', ';', ' ', 'c']] = some [PortInput.present 0x90000FFFF#36] := by
  decide
/-- `settone 0x3E8`, then `rst` -/
theorem test_assemble_hexadecimal_and_rst :
    assemble [['s', 'e', 't', 't', 'o', 'n', 'e', '\t', '0', 'x', '3', 'E', '8'], ['r', 's', 't']] =
      some [PortInput.present 0x3000003E8#36, PortInput.resetPulse] := by decide
/-- `step 32768` is an assembler error. -/
theorem test_assemble_refuses_operand_out_of_range :
    assemble [['s', 't', 'e', 'p', ' ', '3', '2', '7', '6', '8']] = none := by decide
/-- `rep 2 5` -/
theorem test_assemble_rep :
    assemble [['r', 'e', 'p', ' ', '2', ' ', '5']] =
      some [PortInput.present 0x900000005#36, PortInput.present 0x900000005#36] := by decide

/-! ## Witnesses: states and operands that meet the premises of the statements -/

def offState : State := p3 130338324 .off 8 1686629702
def attackState : State := p3 1245184000 .attack 1 843314856
def lastAttackState : State := p3 915324659 .attack 7 3373259424
def sustainState : State := p3 217688804 .sustain 8 1686629704
def releaseState : State := p3 186640936 .release 2 2951601988
def lastReleaseState : State := p3 144419196 .release 7 1686629702
def undefinedState : State := { State.reset with defined := false }
def illegalState : State := { State.reset with config := configOf 0 0 0 0 40 10 90 }
def rstInput : PortInput := { rst := true, cmdValid := true, cmd := 0x900004E20 }
/-- The host presents `p` next. -/
def facing (p : PortInput) : State := { attackState with portIn := [p] }

theorem inv_offState : Inv offState := ⟨by decide, by decide, by decide, by decide⟩
theorem inv_attackState : Inv attackState := ⟨by decide, by decide, by decide, by decide⟩
theorem inv_sustainState : Inv sustainState := ⟨by decide, by decide, by decide, by decide⟩
theorem inv_releaseState : Inv releaseState := ⟨by decide, by decide, by decide, by decide⟩

theorem witness_RstTakesEveryRegisterToReset :
    (facing rstInput).portIn = rstInput :: [] ∧ rstInput.rst = true := by decide
theorem witness_DerivedRegistersAreWrittenOnlyByInit :
    Instr.step 5 ≠ .init ∧ attackState.defined = true ∧ (facing rstInput).portIn = rstInput :: [] := by decide
theorem witness_InvariantsAreKeptByEveryStep :
    ∃ t, Inv { attackState with portIn := [PortInput.present 0x900000005#36] } ∧
      step { attackState with portIn := [PortInput.present 0x900000005#36] } = .next t :=
  ⟨_, ⟨by decide, by decide, by decide, by decide⟩, rfl⟩
theorem witness_InvariantsHoldInEveryReachableState : Reachable State.reset := .reset
theorem witness_DerivedRegistersComeFromOneLegalConfiguration_step :
    DerivedFromLegal { State.reset with portIn := [PortInput.present 0x900000005#36] } ∧
      ∃ t, step { State.reset with portIn := [PortInput.present 0x900000005#36] } = .next t ∧ t.defined = true :=
  ⟨fun _ => ⟨State.reset.config, by decide, derive_reset.symm⟩, _, rfl, rfl⟩
theorem witness_DerivedRegistersComeFromOneLegalConfiguration :
    Reachable State.reset ∧ State.reset.defined = true := ⟨.reset, rfl⟩
theorem witness_StepRunsTheCommandAccepted :
    (facing (PortInput.present 0x900000005#36)).portIn = PortInput.present 0x900000005#36 :: [] ∧
      (PortInput.present 0x900000005#36).rst = false ∧ (PortInput.present 0x900000005#36).cmdValid = true ∧
      decode (PortInput.present 0x900000005#36).cmd = .ok (.step 5) := by decide
theorem witness_IdleMomentHoldsEveryRegister :
    (∀ p ∈ (facing PortInput.idle).portIn.head?, p.rst = false ∧ p.cmdValid = false) ∧
      ∀ p ∈ State.reset.portIn.head?, p.rst = false ∧ p.cmdValid = false := by
  constructor
  · intro p h; cases h; exact ⟨rfl, rfl⟩
  · nofun
theorem witness_OnlyReservedOpcodesStopTheMachine :
    step (facing (PortInput.present 0xA00000000#36)) = .refused (.reservedOpcode 0xA) ∧
      10 ≤ (opField 0xA00000000#36).toNat := ⟨rfl, by decide⟩
theorem witness_SerializedSamplesAreLittleEndian : SampleInRange (-32768) ∧ SampleInRange 32767 := by decide
theorem witness_PartialTrailingByteIsDiscarded :
    (∀ v ∈ [(-1 : Int), 20000], SampleInRange v) ∧ [(0x55 : Byte)].length ≤ 1 ∧ ([] : List Byte).length ≤ 1 := by
  decide
theorem witness_StagedConfigurationIsNotSeenBeforeInit :
    .init ∉ [Instr.settone 1000, .nop, .step 5] ∧ attackState.defined = true := by decide
theorem witness_DecoderSelectsByTheOpcodeAlone :
    (opField 0x9FFFFFFFF#36).toNat ≤ 9 ∧ 10 ≤ (opField 0xA00000000#36).toNat := by decide
theorem witness_DecodeOfEncodeIsTheCommand :
    (Instr.step (-32768)).WellFormed ∧ (Instr.setvol 4294967295).WellFormed := by decide
theorem witness_SetCommandsStageOneRegister : ValueInRange 4294967295 ∧ ValueInRange 0 := by decide
theorem witness_InitComputesTheDerivedParameters :
    1 ≤ State.reset.config.samplerateHz.toNat ∧
      State.reset.config.toneHz.toNat < State.reset.config.samplerateHz.toNat ∧
      State.reset.config.attackMs.toNat * State.reset.config.samplerateHz.toNat / 1000 ≤ 2 ^ 32 - 1 ∧
      State.reset.config.releaseMs.toNat * State.reset.config.samplerateHz.toNat / 1000 ≤ 2 ^ 32 - 1 := by decide
theorem witness_InitTwiceIsInitOnce : CfgLegal attackState.config := by decide
theorem witness_PercentIsClampedToTheAmplitudeDomain : 4294967295 < 2 ^ 32 ∧ 100 ≤ 4294967295 ∧ 99 ≤ 100 := by decide
theorem witness_UndefinedFromAnIllegalInitUntilRepair :
    ¬ CfgLegal illegalState.config ∧ undefinedState.defined = false ∧ CfgLegal undefinedState.config ∧
      (facing rstInput).portIn = rstInput :: [] := by decide
theorem witness_ResultsWithoutAValueDependOnNothing :
    undefinedState.defined = false ∧ undefinedState.freeDraws = undefinedState.freeDraws := by decide
theorem witness_InitCutsTheTone : CfgLegal sustainState.config ∧ SampleInRange 20000 := by decide
/-- Both clauses, the second at equality. -/
theorem witness_StepRaisesOrDecaysThePeak :
    (machine derivedP3 (streamOf 65536 .off 0 0)).defined = true ∧ SampleInRange (-2) ∧ SampleInRange 1 ∧
      (-2 : Int).natAbs * 2 ^ 16 > (streamOf 65536 .off 0 0).peak.toNat ∧
      (1 : Int).natAbs * 2 ^ 16 ≤ (streamOf 65536 .off 0 0).peak.toNat := by decide
theorem witness_DecayReachesZero : 32768 * 2 ^ 16 ≤ 32768 * 2 ^ 16 := by decide
theorem witness_SilenceDrainsThePeak : Inv attackState ∧ attackState.defined = true := ⟨inv_attackState, rfl⟩
theorem witness_PeakDoesNotDependOnConfiguration :
    attackState.defined = true ∧ (machine State.reset.derived attackState.stream).defined = true ∧
      attackState.stream.peak = (machine State.reset.derived attackState.stream).stream.peak := by decide
theorem witness_OnlyTheCycleIsTaken : releaseState.defined = true := by decide
/-- Both clauses: a loud sample and a silent one. -/
theorem witness_OffRowTriggersAboveTheUpperThreshold :
    offState.defined = true ∧ AngleStepBounded offState ∧ offState.stream.state = .off ∧
      seen (fun t => decide (t.stream.peak.toNat > offState.derived.rateHigh.toNat * 2 ^ 16))
        (exec (.step 13107) offState) = some true ∧
      seen (fun t => decide (t.stream.peak.toNat ≤ offState.derived.rateHigh.toNat * 2 ^ 16))
        (exec (.step 13106) offState) = some true := by decide
theorem witness_AttackRowCountsToSustain :
    attackState.defined = true ∧ CounterBounded attackState ∧ attackState.stream.state = .attack ∧
      attackState.stream.counter.toNat + 1 ≠ max attackState.derived.attackSamples.toNat 1 := by decide
/-- The other clause, at the last sample of the attack. -/
theorem witness_AttackRowCountsToSustain_last :
    lastAttackState.defined = true ∧ CounterBounded lastAttackState ∧ lastAttackState.stream.state = .attack ∧
      lastAttackState.stream.counter.toNat + 1 = max lastAttackState.derived.attackSamples.toNat 1 := by decide
/-- Both clauses: a silent sample and one at the threshold itself. -/
theorem witness_SustainRowReleasesBelowTheLowerThreshold :
    sustainState.defined = true ∧ sustainState.stream.state = .sustain ∧
      seen (fun t => decide (t.stream.peak.toNat < sustainState.derived.rateLow.toNat * 2 ^ 16))
        (exec (.step 0) sustainState) = some true ∧
      seen (fun t => decide (sustainState.derived.rateLow.toNat * 2 ^ 16 ≤ t.stream.peak.toNat))
        (exec (.step 3276) (p3 0 .sustain 8 0)) = some true := by decide
theorem witness_ReleaseRowCountsToOff :
    releaseState.defined = true ∧ CounterBounded releaseState ∧ releaseState.stream.state = .release ∧
      releaseState.stream.counter.toNat + 1 ≠ max releaseState.derived.releaseSamples.toNat 1 := by decide
/-- The other clause, at the last sample of the release. -/
theorem witness_ReleaseRowCountsToOff_last :
    lastReleaseState.defined = true ∧ CounterBounded lastReleaseState ∧ lastReleaseState.stream.state = .release ∧
      lastReleaseState.stream.counter.toNat + 1 = max lastReleaseState.derived.releaseSamples.toNat 1 := by decide
/-- Two states that differ in their phase, their tone and their volume. -/
theorem witness_TransitionDependsOnStatePeakAndCounter :
    let u := machine { derivedP3 with outVolume := 5, angleStep := 9 } (streamOf 1245184000 .attack 1 7)
    attackState.defined = true ∧ u.defined = true ∧ attackState.stream.state = u.stream.state ∧
      attackState.stream.counter = u.stream.counter ∧
      attackState.derived.attackSamples = u.derived.attackSamples ∧
      attackState.derived.releaseSamples = u.derived.releaseSamples ∧
      attackState.derived.rateHigh = u.derived.rateHigh ∧ attackState.derived.rateLow = u.derived.rateLow ∧
      seen (·.stream.peak) (exec (.step 3) attackState) = seen (·.stream.peak) (exec (.step (-4)) u) := by decide
/-- One sample of program P6: the peak stays between the thresholds. -/
theorem witness_DeadZoneKeepsTheState :
    let s := p3 327680000 .sustain 8 0
    s.defined = true ∧ (s.stream.state = .off ∨ s.stream.state = .sustain) ∧
      (∀ (ys : List Int) (u : State), ys <+: [5000] → ys ≠ [] → runCommands (feedCommands ys) s = .next u →
        s.derived.rateLow.toNat * 2 ^ 16 ≤ u.stream.peak.toNat ∧
        u.stream.peak.toNat ≤ s.derived.rateHigh.toNat * 2 ^ 16) ∧
      ∃ t, runCommands (feedCommands [5000]) s = .next t := by
  refine ⟨by decide, by decide, ?_, _, rfl⟩
  intro ys u hp hn hu
  rcases ys with _ | ⟨y, _ | ⟨z, zs⟩⟩
  · exact absurd rfl hn
  · obtain ⟨w, hw⟩ := hp
    cases hw
    cases hu
    decide
  · have := hp.length_le
    simp at this
theorem witness_AttackLastsItsCountOfSamples :
    ∃ u, offState.defined = true ∧ offState.stream.state = .off ∧ exec (.step 20000) offState = .next u ∧
      u.stream.state = .attack ∧ [(0 : Int), 0].length < max offState.derived.attackSamples.toNat 1 ∧
      (List.replicate 8 (0 : Int)).length = max offState.derived.attackSamples.toNat 1 :=
  ⟨_, by decide, by decide, rfl, by decide, by decide, by decide⟩
theorem witness_ReleaseLastsItsCountOfSamples :
    ∃ u, sustainState.defined = true ∧ sustainState.stream.state = .sustain ∧
      exec (.step 0) sustainState = .next u ∧ u.stream.state = .release ∧
      [(30000 : Int)].length < max sustainState.derived.releaseSamples.toNat 1 ∧
      (List.replicate 8 (0 : Int)).length = max sustainState.derived.releaseSamples.toNat 1 :=
  ⟨_, by decide, by decide, rfl, by decide, by decide, by decide⟩
theorem witness_SilenceStaysOff :
    offState.defined = true ∧ offState.stream.state = .off ∧
      offState.stream.peak.toNat ≤ offState.derived.rateHigh.toNat * 2 ^ 16 := by decide
theorem witness_SineAndEnvelopeStayInRange : 3373259426 ≤ 3373259426 ∧ 1 ≤ 8 ∧ 7 < 8 := by decide
theorem witness_EnvelopeRises : 6 + 1 < 8 := by decide
/-- At the phase 0 the real sine is 0, half a unit from the nearest half-integer. -/
theorem witness_SineIsTheRoundedRealSine :
    0 ≤ 3373259426 ∧ ∀ m : ℤ,
      1 / 2 ^ 100 < |32768 * Real.sin (((0 : Nat) : ℝ) / 2 ^ 29) - ((m : ℝ) + 1 / 2)| := by
  refine ⟨by decide, fun m => ?_⟩
  have h : (1 : ℝ) ≤ |(2 * m + 1 : ℤ)| := by exact_mod_cast Int.one_le_abs (by omega)
  have e : 32768 * Real.sin (((0 : Nat) : ℝ) / 2 ^ 29) - ((m : ℝ) + 1 / 2) = -(((2 * m + 1 : ℤ) : ℝ) / 2) := by
    simp
    ring
  rw [e, abs_neg, abs_div]
  norm_num at h ⊢
  linarith
/-- At k = 0 the real envelope is 0, half a unit from the nearest half-integer. -/
theorem witness_EnvelopeIsTheRoundedQuarterSine :
    0 < 8 ∧ ∀ m : ℤ,
      1 / 2 ^ 100 < |32768 * Real.sin (Real.pi / 2 * ((0 : Nat) : ℝ) / ((8 : Nat) : ℝ)) - ((m : ℝ) + 1 / 2)| := by
  refine ⟨by decide, fun m => ?_⟩
  have := witness_SineIsTheRoundedRealSine.2 m
  simpa using this
theorem witness_MultiplierNeedsNoSaturation :
    (-32768 : Int).natAbs ≤ 32768 ∧ 32768 ≤ 32768 ∧ 32767 ≤ 32767 := by decide
theorem witness_StepOutputsTheShapedCarrier : releaseState.defined = true := by decide
/-- The phase at its upper end, `TWO_PI_FX` itself. -/
theorem witness_PhaseAdvancesWithOneSubtraction :
    (p3 0 .attack 1 3373259426).defined = true ∧ PhaseBounded (p3 0 .attack 1 3373259426) ∧
      AngleStepBounded (p3 0 .attack 1 3373259426) := by decide
theorem witness_PhaseRunsOnThroughTheTone :
    attackState.defined = true ∧ PhaseBounded attackState ∧ AngleStepBounded attackState ∧
      attackState.stream.state ≠ .off ∧
      (∀ (ys : List Int) (u : State), ys <+: [0] → runCommands (feedCommands ys) attackState = .next u →
        u.stream.state ≠ .off) ∧
      ∃ t, runCommands (feedCommands [0]) attackState = .next t := by
  refine ⟨by decide, by decide, by decide, by decide, ?_, _, rfl⟩
  intro ys u hp hu
  rcases ys with _ | ⟨y, _ | ⟨z, zs⟩⟩
  · cases hu
    decide
  · obtain ⟨w, hw⟩ := hp
    cases hw
    cases hu
    decide
  · have := hp.length_le
    simp at this
theorem witness_ReleaseMirrorsAttack :
    derivedP3.attackSamples = derivedP3.releaseSamples ∧ (streamOf 0 .attack 0 0).state = .attack ∧
      (streamOf 0 .release 7 0).state = .release ∧
      (streamOf 0 .attack 0 0).counter.toNat + (streamOf 0 .release 7 0).counter.toNat + 1
        = max derivedP3.attackSamples.toNat 1 ∧
      (streamOf 0 .attack 0 0).counter = 0 := by decide
theorem witness_StepFollowsTheListing :
    releaseState.defined = true ∧ Inv releaseState ∧ SampleInRange (-32768) :=
  ⟨by decide, inv_releaseState, by decide⟩
theorem witness_StepIsTotalWithinTheInvariants :
    sustainState.defined = true ∧ Inv sustainState ∧ SampleInRange 32767 :=
  ⟨by decide, inv_sustainState, by decide⟩
/-- Two states that differ in their configuration registers. -/
theorem witness_StepDependsOnStreamAndDerivedRegistersAlone :
    let u := { attackState with config := configOf 1 2 3 4 5 6 7 }
    attackState.defined = true ∧ u.defined = true ∧ attackState.derived = u.derived ∧
      attackState.stream = u.stream := by decide
/-- Each of the four cases. -/
theorem witness_BoundarySamplesAreZero :
    offState.defined = true ∧ offState.stream.state = .off ∧
      seen (·.stream.state) (exec (.step 0) lastReleaseState) = some .off ∧
      (machine { derivedP3 with outVolume := 0 } (streamOf 0 .sustain 8 5)).derived.outVolume = 0 ∧
      (let s := machine { derivedP3 with releaseSamples := 1 } (streamOf 217688804 .sustain 8 1686629704)
       s.stream.state = .sustain ∧ seen (·.stream.state) (exec (.step 0) s) = some .release ∧
         s.derived.releaseSamples.toNat ≤ 1) := by decide

end Sys2Proof.Tests
end

/-! SUPPORT. The statements of spec/10_state.md about the reset table (R45) and about who writes the derived registers
(R48). -/

namespace Sys2Proof.Machine

/-- The reset configuration meets L1 to L4 (R45, R129). -/
theorem cfgLegal_reset : CfgLegal State.reset.config := by decide

/-- Every command completes, whatever its operand and the state (R281). -/
theorem exec_completes (i : Instr) (s : State) : ∃ t, exec i s = .next t := by
  cases i with
  | init =>
    simp only [exec, execInit]
    split <;> exact ⟨_, rfl⟩
  | step x =>
    simp only [exec, execStep]
    split <;> exact ⟨_, rfl⟩
  | _ => exact ⟨_, rfl⟩

/-- A command other than `INIT`, run where the registers have a value, keeps the derived registers and their having a
value (R48). -/
theorem exec_keeps_derived {i : Instr} {s t : State} (hi : i ≠ .init) (hs : s.defined = true)
    (h : exec i s = .next t) : t.derived = s.derived ∧ t.defined = true := by
  refine exec_cases (P := fun t => t.derived = s.derived ∧ t.defined = true) h
    (nop := ?nop) (set := ?set) (legal := ?legal) (illegal := ?illegal) (run := ?run) (free := ?free)
  case nop => intro _; exact ⟨rfl, hs⟩
  case set => intro _ _ _ _; exact ⟨rfl, hs⟩
  case legal => intro hinit; exact absurd hinit hi
  case illegal => intro hinit; exact absurd hinit hi
  case run => intro _ _ _; exact ⟨rfl, hs⟩
  case free => intro _ _ hfree; exact absurd (hs.symm.trans hfree) (by decide)

/-- A moment in which `rst` is asserted is the reset event, whatever is presented with it (R243, R270). -/
theorem step_of_rst {s : State} {p : PortInput} {rest : List PortInput} (hp : s.portIn = p :: rest)
    (hr : p.rst = true) : step s = .next (takeReset { s with portIn := rest }) := by
  simp [step, nextMoment, drive, hp, hr]

end Sys2Proof.Machine

namespace Sys2Proof.Proofs.StateRegisters

open Sys2Proof Sys2Proof.Machine

/-- Settles O1: the 17 values are those of the reset literal, and the derived ones are `derive` of a configuration that
is legal. -/
theorem resetRegistersHoldTheTable : Obligations.ResetRegistersHoldTheTable :=
  ⟨rfl, rfl, rfl, rfl, cfgLegal_reset, derive_reset⟩

/-- Settles O3, from what each command leaves and from the reset event. -/
theorem derivedRegistersAreWrittenOnlyByInit : Obligations.DerivedRegistersAreWrittenOnlyByInit := by
  constructor
  · intro i s hi hs
    obtain ⟨t, ht⟩ := exec_completes i s
    exact ⟨t, ht, exec_keeps_derived hi hs ht⟩
  · intro s p rest hp hr
    exact ⟨_, step_of_rst hp hr, derive_reset.symm⟩

end Sys2Proof.Proofs.StateRegisters

/-! SUPPORT. The framer's contract (spec/20_memory.md rule R66): what `frameIn` and `frameOut` make of a sample and of
its two bytes, and that they undo each other. -/

namespace Sys2Proof.Machine

/-- A sample read from 16 bits is congruent to the number they encode (R13, R65). -/
theorem sext16_emod (b : SampleBits) : sext16 b % 65536 = b.toNat := by
  rw [← sampleBits_toNat, sampleBits_sext16]

/-- The first byte written is the low one (R66). -/
theorem frameOut_fst_toNat (v : Int) : ((frameOut v).1.toNat : Int) = v % 65536 % 256 := by
  rw [← sampleBits_toNat]
  simp [frameOut]

/-- The second byte written is the high one (R66). -/
theorem frameOut_snd_toNat (v : Int) : ((frameOut v).2.toNat : Int) = v % 65536 / 256 := by
  have hlt : (sampleBits v).toNat < 65536 := (sampleBits v).isLt
  have hbyte : (frameOut v).2.toNat = (sampleBits v).toNat / 256 % 256 := by
    simp [frameOut, Nat.shiftRight_eq_div_pow]
  rw [hbyte, ← sampleBits_toNat]
  omega

/-- Two bytes read as a sample, the second one the more significant (R66). -/
theorem frameIn_emod (b0 b1 : Byte) : frameIn b0 b1 % 65536 = b0.toNat + 256 * b1.toNat := by
  have happend : (b1 ++ b0).toNat = b1.toNat <<< 8 + b0.toNat := by
    rw [BitVec.toNat_append, Nat.shiftLeft_add_eq_or_of_lt b0.isLt]
  rw [frameIn, sext16_emod, happend, Nat.shiftLeft_eq]
  omega

/-- Framing loses no sample in range (R66). -/
theorem frameIn_frameOut {v : Int} (h : SampleInRange v) : frameIn (frameOut v).1 (frameOut v).2 = v := by
  have hbits : (frameOut v).2 ++ (frameOut v).1 = sampleBits v := BitVec.extractLsb'_append_extractLsb'
  rw [frameIn, hbits, sext16_sampleBits h]

/-- Framing loses no byte (R66). -/
theorem frameOut_frameIn (b0 b1 : Byte) : frameOut (frameIn b0 b1) = (b0, b1) := by
  rw [frameOut, frameIn, sampleBits_sext16, BitVec.extractLsb'_append_eq_right, BitVec.extractLsb'_append_eq_left]

end Sys2Proof.Machine

namespace Sys2Proof.Proofs.Memory

open Sys2Proof Sys2Proof.Machine

/-- Settles O17, from the bytes `frameOut` writes, the number `frameIn` reads, and the two round trips. -/
theorem serializedSamplesAreLittleEndian : Obligations.SerializedSamplesAreLittleEndian := by
  constructor
  · intro v hv
    exact ⟨frameOut_fst_toNat v, frameOut_snd_toNat v, frameIn_frameOut hv⟩
  · intro b0 b1
    have hcongr := frameIn_emod b0 b1
    exact ⟨frameOut_frameIn b0 b1, sext16_inRange _, by omega⟩

end Sys2Proof.Proofs.Memory

/-! SUPPORT. The debug read port (spec/10_state.md rule R20, spec/30_encoding.md rules R97, R98): the code of STATE, and
what the port shows of each class of registers. -/

namespace Sys2Proof.Machine

/-- Every 2-bit code is the code of the lifecycle state it names (R97). -/
@[simp] theorem Lifecycle.code_ofCode (c : BitVec 2) : (Lifecycle.ofCode c).code = c := by
  revert c
  decide

/-- The number the debug port shows at an index. -/
def debugValue (s : State) (n : Nat) : Nat := (debugRead s (BitVec.ofNat 5 n)).toNat

/-- Zero-extension to the width of the debug port keeps the number (R98). -/
theorem toNat_zeroExtended {w : Nat} (h : w ≤ 32) (b : BitVec w) : (b.setWidth 32).toNat = b.toNat :=
  BitVec.toNat_setWidth_of_le h

/-- STATE at index 17 (R97). -/
theorem debugValue_state (s : State) : debugValue s 17 = s.stream.state.code.toNat :=
  toNat_zeroExtended (by decide) s.stream.state.code

/-- RATE_HIGH at index 10 (R98). -/
theorem debugValue_rateHigh (s : State) : debugValue s 10 = s.derived.rateHigh.toNat :=
  toNat_zeroExtended (by decide) s.derived.rateHigh

/-- RATE_LOW at index 11 (R98). -/
theorem debugValue_rateLow (s : State) : debugValue s 11 = s.derived.rateLow.toNat :=
  toNat_zeroExtended (by decide) s.derived.rateLow

/-- OUT_VOLUME at index 12 (R98). -/
theorem debugValue_outVolume (s : State) : debugValue s 12 = s.derived.outVolume.toNat :=
  toNat_zeroExtended (by decide) s.derived.outVolume

/-- The configuration registers, indices 0 to 6, and the unused index 7 (R20 a, R98). -/
theorem debugValue_config (s : State) :
    (List.range' 0 8).map (debugValue s) =
      [s.config.attackMs.toNat, s.config.releaseMs.toNat, s.config.toneHz.toNat, s.config.samplerateHz.toNat,
        s.config.hithresPct.toNat, s.config.lothresPct.toNat, s.config.volumePct.toNat, 0] := rfl

/-- The derived registers, indices 8 to 13, and the unused indices 14 and 15 (R20 b, R98). -/
theorem debugValue_derived (s : State) :
    (List.range' 8 8).map (debugValue s) =
      [s.derived.attackSamples.toNat, s.derived.releaseSamples.toNat, s.derived.rateHigh.toNat,
        s.derived.rateLow.toNat, s.derived.outVolume.toNat, s.derived.angleStep.toNat, 0, 0] := by
  rw [← debugValue_rateHigh, ← debugValue_rateLow, ← debugValue_outVolume]
  rfl

/-- The stream registers, indices 16 to 19 (R20 c, R98). -/
theorem debugValue_stream (s : State) :
    (List.range' 16 4).map (debugValue s) =
      [s.stream.peak.toNat, s.stream.state.code.toNat, s.stream.counter.toNat, s.stream.phase.toNat] := by
  rw [← debugValue_state]
  rfl

/-- The indices above the registers, 20 to 31 (R98). -/
theorem debugValue_unused (s : State) : (List.range' 20 12).map (debugValue s) = List.replicate 12 0 := rfl

end Sys2Proof.Machine

/-! SUPPORT. The sample operand (spec/30_encoding.md rule R99), and the decoder on a word made of an opcode and an
argument: one equation per opcode (R94, R95), and per format what the assembler emits again (R91 to R93). -/

namespace Sys2Proof.Machine

/-- `arg[15:0]` as a number (R13). -/
theorem lowHalf_toNat (arg : Word) : (arg.extractLsb' 0 16).toNat = arg.toNat % 65536 :=
  BitVec.extractLsb'_toNat 0 16 arg

/-- The sample operand as a number: the low 16 bits of `arg`, read as two's complement (R93, R99). -/
theorem sampleOperand_eq (arg : Word) :
    sampleOperand arg =
      if arg.toNat % 65536 < 32768 then ((arg.toNat % 65536 : Nat) : Int)
      else ((arg.toNat % 65536 : Nat) : Int) - 65536 := by
  rw [sampleOperand, sext16, lowHalf_toNat]

/-- The sample operand is in range, whatever the argument (R65). -/
theorem sampleOperand_inRange (arg : Word) : SampleInRange (sampleOperand arg) := sext16_inRange _

end Sys2Proof.Machine

namespace Sys2Proof

open Machine

section Decoding

variable (arg : Word)

/-! One equation for each row of the table of R94. -/

theorem decode_nop : decode (0x0#4 ++ arg) = .ok .nop := by
  rw [decode, opField_append]; rfl

theorem decode_setatk : decode (0x1#4 ++ arg) = .ok (.setatk arg.toNat) := by
  rw [decode, opField_append, argField_append]; rfl

theorem decode_setrel : decode (0x2#4 ++ arg) = .ok (.setrel arg.toNat) := by
  rw [decode, opField_append, argField_append]; rfl

theorem decode_settone : decode (0x3#4 ++ arg) = .ok (.settone arg.toNat) := by
  rw [decode, opField_append, argField_append]; rfl

theorem decode_setrate : decode (0x4#4 ++ arg) = .ok (.setrate arg.toNat) := by
  rw [decode, opField_append, argField_append]; rfl

theorem decode_sethi : decode (0x5#4 ++ arg) = .ok (.sethi arg.toNat) := by
  rw [decode, opField_append, argField_append]; rfl

theorem decode_setlo : decode (0x6#4 ++ arg) = .ok (.setlo arg.toNat) := by
  rw [decode, opField_append, argField_append]; rfl

theorem decode_setvol : decode (0x7#4 ++ arg) = .ok (.setvol arg.toNat) := by
  rw [decode, opField_append, argField_append]; rfl

theorem decode_init : decode (0x8#4 ++ arg) = .ok .init := by
  rw [decode, opField_append]; rfl

theorem decode_step : decode (0x9#4 ++ arg) = .ok (.step (sampleOperand arg)) := by
  rw [decode, opField_append, argField_append]; rfl

/-- The six opcodes above `STEP`'s are reserved (R95). -/
theorem decode_reserved {w : CmdWord} (h : 10 ≤ (opField w).toNat) :
    decode w = .error (.reservedOpcode (opField w)) := by
  obtain ⟨n, hn⟩ : ∃ n, (opField w).toNat = n + 10 := ⟨_, (Nat.sub_add_cancel h).symm⟩
  rw [decode, hn]
  rfl

/-- The opcodes of the ten commands (R94). -/
theorem opcode_cases {op : BitVec 4} (h : op.toNat ≤ 9) :
    op = 0x0 ∨ op = 0x1 ∨ op = 0x2 ∨ op = 0x3 ∨ op = 0x4 ∨ op = 0x5 ∨ op = 0x6 ∨ op = 0x7 ∨
      op = 0x8 ∨ op = 0x9 := by
  revert op
  decide

/-- A value operand is emitted as the argument it was read from (R92). -/
theorem ofNat_toNat_eq_and_not_zero : BitVec.ofNat 32 arg.toNat = arg &&& ~~~ (0 : Word) := by
  have hmask : ~~~ (0 : Word) = BitVec.allOnes 32 := by decide
  rw [hmask, BitVec.and_allOnes, BitVec.ofNat_toNat, BitVec.setWidth_eq]

/-- A sample operand is emitted as the low half of the argument it was read from, under 16 zeros (R93). -/
theorem sampleBits_sampleOperand_eq_and :
    (sampleBits (sampleOperand arg)).setWidth 32 = arg &&& ~~~ (0xFFFF0000 : Word) := by
  have hmask : (~~~ (0xFFFF0000 : Word)).toNat = 2 ^ 16 - 1 := by decide
  rw [sampleOperand, sampleBits_sext16]
  apply BitVec.eq_of_toNat_eq
  rw [toNat_zeroExtended (by decide), lowHalf_toNat, BitVec.toNat_and, hmask, Nat.and_two_pow_sub_one_eq_mod]

/-- The operand emitted for a sample fills the low half of `arg` at most (R93). -/
theorem argument_step_lt (x : Int) : (Instr.step x).argument.toNat < 2 ^ 16 := by
  rw [Instr.argument, toNat_zeroExtended (by decide)]
  exact (sampleBits x).isLt

/-- A word with an opcode of R94 decodes to a command `i` of that opcode, whose operand is in range and whose argument
field is that of the word without the bits its format ignores. -/
def DecodesTo (op : BitVec 4) (i : Instr) : Prop :=
  decode (op ++ arg) = .ok i ∧ i.opcode = op ∧ i.WellFormed ∧ i.argument = arg &&& ~~~ ignoredBits op

/-- Each of the ten opcodes selects a command, whatever the argument (R96). -/
theorem exists_decodesTo {op : BitVec 4} (h : op.toNat ≤ 9) : ∃ i, DecodesTo arg op i := by
  have hvalue : decide (ValueInRange arg.toNat) = true := decide_eq_true arg.isLt
  have hall := ofNat_toNat_eq_and_not_zero arg
  have hnone : 0 = arg &&& ~~~ (0xFFFFFFFF : Word) := BitVec.and_zero.symm
  obtain rfl | rfl | rfl | rfl | rfl | rfl | rfl | rfl | rfl | rfl := opcode_cases h
  · exact ⟨.nop, decode_nop arg, rfl, rfl, hnone⟩
  · exact ⟨_, decode_setatk arg, rfl, hvalue, hall⟩
  · exact ⟨_, decode_setrel arg, rfl, hvalue, hall⟩
  · exact ⟨_, decode_settone arg, rfl, hvalue, hall⟩
  · exact ⟨_, decode_setrate arg, rfl, hvalue, hall⟩
  · exact ⟨_, decode_sethi arg, rfl, hvalue, hall⟩
  · exact ⟨_, decode_setlo arg, rfl, hvalue, hall⟩
  · exact ⟨_, decode_setvol arg, rfl, hvalue, hall⟩
  · exact ⟨.init, decode_init arg, rfl, rfl, hnone⟩
  · exact ⟨_, decode_step arg, rfl, decide_eq_true (sampleOperand_inRange arg), sampleBits_sampleOperand_eq_and arg⟩

end Decoding

end Sys2Proof

namespace Sys2Proof.Proofs.Encoding

open Sys2Proof Sys2Proof.Machine

/-- Settles O20: the word is its two fields, and each opcode has its row of the decoder. -/
theorem decoderSelectsByTheOpcodeAlone : Obligations.DecoderSelectsByTheOpcodeAlone := by
  intro w
  refine ⟨fun h => ?_, decode_reserved⟩
  obtain ⟨i, hdec, hop, hwf, harg⟩ := exists_decodesTo (argField w) h
  rw [opField_append_argField] at hdec
  exact ⟨i, hdec, hop, hwf, by rw [encode, hop, harg, canonicalWord]⟩

/-- Settles O4: each 2-bit code is the code of a lifecycle state, and the port shows the code. -/
theorem stateCodeOnTheDebugPort : Obligations.StateCodeOnTheDebugPort :=
  ⟨rfl, rfl, rfl, rfl, fun c => ⟨.ofCode c, Lifecycle.code_ofCode c⟩, debugValue_state⟩

/-- Settles O5, from what the port shows of each class of registers. -/
theorem debugPortShowsTheRegisterTable : Obligations.DebugPortShowsTheRegisterTable := by
  intro s
  have hindices : List.range 32 = List.range' 0 8 ++ List.range' 8 8 ++ List.range' 16 4 ++ List.range' 20 12 := rfl
  change (List.range 32).map (debugValue s) = _
  rw [hindices, List.map_append, List.map_append, List.map_append, debugValue_config, debugValue_derived,
    debugValue_stream, debugValue_unused]
  rfl

/-- Settles O22, from the decoder's equation for each opcode and the argument emitted for a sample. -/
theorem formatsReadTheArgumentField : Obligations.FormatsReadTheArgumentField := by
  intro arg
  refine ⟨decode_nop arg, decode_init arg, by decide, by decide, decode_setatk arg, decode_setrel arg,
    decode_settone arg, decode_setrate arg, decode_sethi arg, decode_setlo arg, decode_setvol arg, ?_, ?_⟩
  · rw [decode_step, sampleOperand_eq]
  · intro x
    rw [argField_encode]
    exact argument_step_lt x

/-- Settles O23: the value operand is `arg.toNat` by definition, the sample operand by `sampleOperand_eq`. -/
theorem operandForms : Obligations.OperandForms :=
  ⟨fun arg => ⟨rfl, sampleOperand_eq arg⟩, by decide, by decide, by decide⟩

end Sys2Proof.Proofs.Encoding

/-! SUPPORT. `INIT` under a legal configuration (spec/40_config_derive.md): the command's equation, what each derived
register holds as a number (R130 to R135), and the clamp law of R136. -/

namespace Sys2Proof.Machine

/-- The legal branch of `INIT` (R128). -/
theorem exec_init_of_cfgLegal {s : State} (h : CfgLegal s.config) :
    exec .init s = .next (quiet (startStream s)) := if_pos h

/-- A count of samples within L3 or L4 fits its register (R129 to R131). -/
theorem ofNat_sampleCount_toNat {ms rate : Nat} (h : sampleCount ms rate ≤ 2 ^ 32 - 1) :
    (BitVec.ofNat 32 (sampleCount ms rate)).toNat = sampleCount ms rate :=
  (BitVec.toNat_ofNat ..).trans (Nat.mod_eq_of_lt (Nat.lt_of_le_pred (by decide) h))

/-- ANGLE_STEP is below one turn under L2, so no bit of it is lost (R135). -/
theorem derive_angleStep_toNat {c : ConfigRegs} (h : c.toneHz.toNat < c.samplerateHz.toNat) :
    (derive c).angleStep.toNat = angleStepOf c.toneHz.toNat c.samplerateHz.toNat := by
  have hlt := (angleStepOf_lt h).trans (by decide : Config.twoPiFx < 2 ^ 32)
  exact (BitVec.toNat_ofNat ..).trans (Nat.mod_eq_of_lt hlt)

/-- From 100 percent on, the clamp answers full scale (R136). -/
theorem percentToAmp_of_ge {p : Nat} (h : 100 ≤ p) : percentToAmp p = Config.ampMax := by
  have hscaled : Config.ampMax ≤ p * Config.ampMax / 100 :=
    (Nat.le_div_iff_mul_le (by decide)).2 (Nat.mul_comm 100 _ ▸ Nat.mul_le_mul_right _ h)
  exact Nat.min_eq_left hscaled

/-- The clamp keeps the order of the percentages (R136). -/
theorem percentToAmp_mono {p q : Nat} (h : p ≤ q) : percentToAmp p ≤ percentToAmp q :=
  min_le_min_left _ (Nat.div_le_div_right (Nat.mul_le_mul_right _ h))

/-- The product of the clamp is formed in 47 bits (R136). -/
theorem percent_mul_ampMax_lt {p : Nat} (h : p < 2 ^ 32) : p * Config.ampMax < 2 ^ 47 := by
  unfold Config.ampMax
  omega

end Sys2Proof.Machine

namespace Sys2Proof.Proofs.ConfigDerive

open Sys2Proof Sys2Proof.Machine

/-- Settles O27: L1 to L4 select the legal branch of `INIT`; L3 and L4 bound the counts, the clamp bounds the
amplitudes, and L2 bounds the phase increment, so that each derived register holds its quotient. -/
theorem initComputesTheDerivedParameters : Obligations.InitComputesTheDerivedParameters := by
  intro s hrate htone hattack hrelease
  have hstep := derive_angleStep_toNat htone
  exact ⟨quiet (startStream s), exec_init_of_cfgLegal ⟨hrate, htone, hattack, hrelease⟩,
    ofNat_sampleCount_toNat hattack, ofNat_sampleCount_toNat hrelease, ofNat_percentToAmp_toNat _,
    ofNat_percentToAmp_toNat _, ofNat_percentToAmp_toNat _, hstep, hstep ▸ angleStepOf_lt htone,
    rfl, rfl, rfl, rfl, rfl, rfl, rfl⟩

/-- Settles O29: the first clause is the definition of the clamp, the others are its range, its saturation, its
monotonicity and the width of its product. -/
theorem percentIsClampedToTheAmplitudeDomain : Obligations.PercentIsClampedToTheAmplitudeDomain := by
  intro p hp
  exact ⟨rfl, percentToAmp_le p, percentToAmp_of_ge, fun _ => percentToAmp_mono, percent_mul_ampMax_lt hp⟩

end Sys2Proof.Proofs.ConfigDerive

/-! SUPPORT. The detector (spec/41_detector.md): the equation of `STEP` where the registers have a value, the peak it
leaves (R150 to R153), and the fall of repeated decays to 0 (R156). -/

namespace Sys2Proof.Machine

/-! ### The peak of a `STEP` -/

/-- `STEP` where the registers have a value (R220). -/
theorem exec_step_of_defined {s : State} (h : s.defined = true) (x : Int) :
    exec (.step x) s =
      .next (sampleOut (stepOutput s.derived x s.stream) { s with stream := stepStream s.derived x s.stream }) :=
  if_pos h

/-- `ASR.TRN` only reads PEAK (R171 to R175). -/
theorem asrTrn_peak (d : DerivedRegs) (r : StreamRegs) : (asrTrn d r).peak = r.peak := by
  obtain ⟨_, _, h⟩ | ⟨_, _, h⟩ | ⟨_, _, h⟩ | ⟨_, _, h⟩ | ⟨_, _, h⟩ | ⟨_, _, h⟩ | ⟨_, _, h⟩ | ⟨_, _, h⟩ :=
    asrTrn_cases d r <;> rw [h]

/-- `DET.UPD` alone writes PEAK (R150). -/
@[simp] theorem stepStream_peak (d : DerivedRegs) (x : Int) (r : StreamRegs) :
    (stepStream d x r).peak = detUpd x r.peak :=
  (oscAdv_frame d (afterTransition d x r)).1.trans (asrTrn_peak d _)

/-! ### One decay -/

/-- One decay on integers: 19/20 of the peak, rounded down (R153). -/
theorem decay_bounds (p : Nat) : 20 * decay p ≤ 19 * p ∧ 19 * p < 20 * decay p + 20 := by
  unfold decay Config.decayNum Config.decayDen
  omega

/-- Only 0 survives a decay (R156 a). -/
theorem decay_eq_self_iff {p : Nat} : decay p = p ↔ p = 0 := by
  have := decay_bounds p
  omega

/-- A decay keeps the order of the peaks. -/
theorem decay_mono : Monotone decay := fun _ _ h => Nat.div_le_div_right (Nat.mul_le_mul_right _ h)

/-- A decay is at most the real one. -/
theorem decay_le_real (p : Nat) : (decay p : ℚ) ≤ p * (19 / 20) := by
  have h : (20 * decay p : ℚ) ≤ 19 * p := mod_cast (decay_bounds p).1
  linarith

/-- A decay loses at most 19/20 against the real one (R156 c). -/
theorem real_le_decay (p : Nat) : (p : ℚ) * (19 / 20) ≤ decay p + 19 / 20 := by
  have h : (19 * p : ℚ) ≤ 20 * decay p + 19 := mod_cast Nat.le_of_lt_succ (decay_bounds p).2
  linarith

/-! ### Repeated decays -/

/-- Any number of decays is at most the real sequence. -/
theorem decay_iterate_le_real (p n : Nat) : (decay^[n] p : ℚ) ≤ p * (19 / 20) ^ n := by
  induction n with
  | zero => simp
  | succ n ih =>
    rw [Function.iterate_succ_apply', pow_succ, ← mul_assoc]
    exact (decay_le_real _).trans (mul_le_mul_of_nonneg_right ih (by norm_num))

/-- Any number of decays loses at most 19 units against the real sequence: a decay shrinks the loss so far by 19/20
and adds at most 19/20, and 19 is the fixed point of that (R156 c). -/
theorem real_le_decay_iterate (p n : Nat) : (p : ℚ) * (19 / 20) ^ n ≤ decay^[n] p + 19 := by
  induction n with
  | zero => simp
  | succ n ih =>
    rw [Function.iterate_succ_apply', pow_succ, ← mul_assoc]
    calc (p : ℚ) * (19 / 20) ^ n * (19 / 20)
        ≤ (decay^[n] p + 19) * (19 / 20) := mul_le_mul_of_nonneg_right ih (by norm_num)
      _ = decay^[n] p * (19 / 20) + 19 * (19 / 20) := add_mul ..
      _ ≤ decay (decay^[n] p) + 19 / 20 + 19 * (19 / 20) := by gcongr; exact real_le_decay _
      _ = decay (decay^[n] p) + 19 := by ring

/-- 371 decays bring the largest peak to 1. The evaluation is cut into seven runs of 53 decays. -/
theorem decay_iterate_371_maxPeak : decay^[371] (32768 * 2 ^ 16) = 1 := by
  have run1 : decay^[53] (32768 * 2 ^ 16) = 141670987 := by decide
  have run2 : decay^[53] 141670987 = 9346125 := by decide
  have run3 : decay^[53] 9346125 = 616563 := by decide
  have run4 : decay^[53] 616563 = 40665 := by decide
  have run5 : decay^[53] 40665 = 2674 := by decide
  have run6 : decay^[53] 2674 = 169 := by decide
  have run7 : decay^[53] 169 = 1 := by decide
  rw [show 371 = 53 + 53 + 53 + 53 + 53 + 53 + 53 from rfl]
  simp only [Function.iterate_add_apply, run1, run2, run3, run4, run5, run6, run7]

/-- The largest peak reaches 0 with the 372nd decay (R156 b). -/
theorem decay_iterate_372_maxPeak : decay^[372] (32768 * 2 ^ 16) = 0 := by
  rw [Function.iterate_succ_apply', decay_iterate_371_maxPeak]
  rfl

/-- Every peak in range reaches 0 with the 372nd decay, because a decay keeps the order (R156 b). -/
theorem decay_iterate_372_eq_zero {p : Nat} (h : p ≤ 32768 * 2 ^ 16) : decay^[372] p = 0 :=
  Nat.le_zero.1 ((decay_mono.iterate 372 h).trans_eq decay_iterate_372_maxPeak)

end Sys2Proof.Machine

namespace Sys2Proof.Proofs.Detector

open Sys2Proof Sys2Proof.Machine

/-- Settles O33: the peak after a `STEP` is that of `DET.UPD`, whose two branches are the two clauses. -/
theorem stepRaisesOrDecaysThePeak : Obligations.StepRaisesOrDecaysThePeak := by
  intro x s hdef hx
  refine ⟨_, exec_step_of_defined hdef x, ?_⟩
  rw [sampleOut_stream, stepStream_peak, detUpd_toNat hx]
  exact ⟨fun hrise => if_pos hrise, fun hfall => if_neg (Nat.not_lt.2 hfall)⟩

/-- Settles O34: the bounds of one decay, carried along the iteration, and the evaluated fall from the largest peak. -/
theorem decayReachesZero : Obligations.DecayReachesZero := by
  refine ⟨fun p => ⟨decay_le p, decay_eq_self_iff⟩, decay_iterate_372_maxPeak, ?_, rfl,
    fun _ => decay_iterate_372_eq_zero, fun p => ?_, fun p n => ⟨decay_iterate_le_real p n, ?_⟩⟩
  · rw [decay_iterate_371_maxPeak]
    exact one_ne_zero
  · exact sub_le_iff_le_add.2 (real_le_decay p)
  · have := real_le_decay_iterate p n
    linarith

end Sys2Proof.Proofs.Detector

/-! SUPPORT. The lifecycle state machine (spec/42_asr_state_machine.md): one equation for each row of `ASR.TRN` (R172 to
R175), its edges (R170) and what it reads (R178), and the `STEP` that starts in OFF and does not trigger (R182). -/

namespace Sys2Proof.Machine

/-! ### The rows -/

section Rows

variable (d : DerivedRegs) {r : StreamRegs}

/-- The OFF row (R172). -/
theorem asrTrn_of_off (h : r.state = .off) :
    asrTrn d r =
      if aboveHi d.rateHigh r.peak then { r with state := .attack, phase := 0, counter := 0 } else r := by
  rw [asrTrn, h]

/-- The ATTACK row (R173). -/
theorem asrTrn_of_attack (h : r.state = .attack) :
    asrTrn d r =
      { r with
        counter := BitVec.ofNat 32 (r.counter.toNat + 1)
        state := if r.counter.toNat + 1 = rampLength d.attackSamples then .sustain else .attack } := by
  rw [asrTrn, h]

/-- The SUSTAIN row (R174). -/
theorem asrTrn_of_sustain (h : r.state = .sustain) :
    asrTrn d r = if belowLo d.rateLow r.peak then { r with state := .release, counter := 0 } else r := by
  rw [asrTrn, h]

/-- The RELEASE row (R175). -/
theorem asrTrn_of_release (h : r.state = .release) :
    asrTrn d r =
      { r with
        counter := BitVec.ofNat 32 (r.counter.toNat + 1)
        state := if r.counter.toNat + 1 = rampLength d.releaseSamples then .off else .release } := by
  rw [asrTrn, h]

end Rows

/-- `ASR.TRN` alone writes STATE (R171). -/
@[simp] theorem stepStream_state (d : DerivedRegs) (x : Int) (r : StreamRegs) :
    (stepStream d x r).state = (asrTrn d { r with peak := detUpd x r.peak }).state :=
  (oscAdv_frame d (afterTransition d x r)).2.1

/-- `ASR.TRN` alone writes COUNTER (R171). -/
@[simp] theorem stepStream_counter (d : DerivedRegs) (x : Int) (r : StreamRegs) :
    (stepStream d x r).counter = (asrTrn d { r with peak := detUpd x r.peak }).counter :=
  (oscAdv_frame d (afterTransition d x r)).2.2

/-! ### The cycle -/

/-- The state that follows in the cycle of R170. -/
def Lifecycle.successor : Lifecycle → Lifecycle
  | .off => .attack
  | .attack => .sustain
  | .sustain => .release
  | .release => .off

/-- A transition keeps the state or takes it to its successor (R170). -/
theorem asrTrn_state (d : DerivedRegs) (r : StreamRegs) :
    (asrTrn d r).state = r.state ∨ (asrTrn d r).state = r.state.successor := by
  cases h : r.state with
  | off =>
    rw [asrTrn_of_off d h]
    split
    · exact .inr rfl
    · exact .inl h
  | attack =>
    rw [asrTrn_of_attack d h]
    exact (ite_eq_or_eq ..).symm
  | sustain =>
    rw [asrTrn_of_sustain d h]
    split
    · exact .inr rfl
    · exact .inl h
  | release =>
    rw [asrTrn_of_release d h]
    exact (ite_eq_or_eq ..).symm

/-! ### The counter of a ramp -/

/-- A counter below its ramp length is incremented without losing a bit (R41, R176). -/
theorem ofNat_counter_succ_toNat {counter count : Word} (h : counter.toNat < rampLength count) :
    (BitVec.ofNat 32 (counter.toNat + 1)).toNat = counter.toNat + 1 := by
  have hcount := count.isLt
  unfold rampLength at h
  rw [BitVec.toNat_ofNat, Nat.mod_eq_of_lt (by omega)]

/-! ### What the transition reads -/

/-- The new STATE and COUNTER are a function of STATE, COUNTER, PEAK, the two counts and the two thresholds (R178). -/
theorem asrTrn_congr {d e : DerivedRegs} {r q : StreamRegs} (hstate : r.state = q.state)
    (hcounter : r.counter = q.counter) (hpeak : r.peak = q.peak)
    (hattack : d.attackSamples = e.attackSamples) (hrelease : d.releaseSamples = e.releaseSamples)
    (hhigh : d.rateHigh = e.rateHigh) (hlow : d.rateLow = e.rateLow) :
    (asrTrn d r).state = (asrTrn e q).state ∧ (asrTrn d r).counter = (asrTrn e q).counter := by
  cases hq : q.state with
  | off =>
    rw [asrTrn_of_off d (hstate.trans hq), asrTrn_of_off e hq, hhigh, hpeak]
    split
    · exact ⟨rfl, rfl⟩
    · exact ⟨hstate, hcounter⟩
  | attack =>
    rw [asrTrn_of_attack d (hstate.trans hq), asrTrn_of_attack e hq, hattack, hcounter]
    exact ⟨rfl, rfl⟩
  | sustain =>
    rw [asrTrn_of_sustain d (hstate.trans hq), asrTrn_of_sustain e hq, hlow, hpeak]
    split
    · exact ⟨rfl, rfl⟩
    · exact ⟨hstate, hcounter⟩
  | release =>
    rw [asrTrn_of_release d (hstate.trans hq), asrTrn_of_release e hq, hrelease, hcounter]
    exact ⟨rfl, rfl⟩

/-! ### OFF without a trigger -/

/-- The upper predicate is false exactly up to the threshold itself (R38). -/
theorem aboveHi_eq_false_iff {rateHigh : Amp} {peak : Word} :
    aboveHi rateHigh peak = false ↔ peak.toNat ≤ rateHigh.toNat * 2 ^ 16 :=
  decide_eq_false_iff_not.trans Nat.not_lt

/-- Silence only lowers the peak (R153). -/
theorem detUpd_zero_le (peak : Word) : (detUpd 0 peak).toNat ≤ peak.toNat := by
  have hmag : magnitudeFx 0 = 0 := rfl
  rw [detUpd_toNat (by decide), hmag, if_neg (Nat.not_lt_zero _)]
  exact decay_le _

/-- A `STEP` that starts in OFF and does not trigger moves PEAK alone and gives the sample 0 (R182). -/
theorem exec_step_of_off_untriggered {s : State} {x : Int} (hdef : s.defined = true)
    (hoff : s.stream.state = .off)
    (hquiet : (detUpd x s.stream.peak).toNat ≤ s.derived.rateHigh.toNat * 2 ^ 16) :
    exec (.step x) s =
      .next (sampleOut 0 { s with stream := { s.stream with peak := detUpd x s.stream.peak } }) := by
  have hrow := asrTrn_of_off s.derived (r := { s.stream with peak := detUpd x s.stream.peak }) hoff
  have htrn : afterTransition s.derived x s.stream = { s.stream with peak := detUpd x s.stream.peak } :=
    hrow.trans (if_neg (Bool.eq_false_iff.1 (aboveHi_eq_false_iff.2 hquiet)))
  have hout : stepOutput s.derived x s.stream = 0 := by
    rw [stepOutput, htrn, genSyn, if_pos hoff]
  have hstream : stepStream s.derived x s.stream = { s.stream with peak := detUpd x s.stream.peak } := by
    rw [stepStream, htrn, oscAdv, if_pos hoff]
  rw [exec_step_of_defined hdef, hout, hstream]

/-- A run whose first command completes goes on from the state it leaves (R72). -/
theorem runCommands_cons {i : Instr} {s t : State} (h : exec i s = .next t) (rest : List Instr) :
    runCommands (i :: rest) s = runCommands rest t := by
  rw [runCommands, h]

/-- Silence from OFF with no trigger standing: OFF is kept with COUNTER and PHASE, and each sample out is 0 (R182). -/
theorem runCommands_silence_of_off (n : Nat) {s : State} (hdef : s.defined = true)
    (hoff : s.stream.state = .off) (hpeak : s.stream.peak.toNat ≤ s.derived.rateHigh.toNat * 2 ^ 16) :
    ∃ t, runCommands (repCommands n 0) s = .next t ∧ t.stream.state = .off ∧
      t.stream.counter = s.stream.counter ∧ t.stream.phase = s.stream.phase ∧
      t.stream.peak.toNat ≤ s.stream.peak.toNat ∧ t.outStream = s.outStream ++ List.replicate n 0 := by
  induction n generalizing s with
  | zero => exact ⟨s, rfl, hoff, rfl, rfl, le_rfl, (List.append_nil _).symm⟩
  | succ n ih =>
    have hfall := detUpd_zero_le s.stream.peak
    have hfirst := exec_step_of_off_untriggered hdef hoff (hfall.trans hpeak)
    obtain ⟨t, hrun, hstate, hcounter, hphase, hle, hout⟩ :=
      ih (s := sampleOut 0 { s with stream := { s.stream with peak := detUpd 0 s.stream.peak } })
        hdef hoff (hfall.trans hpeak)
    refine ⟨t, (runCommands_cons hfirst _).trans hrun, hstate, hcounter, hphase, hle.trans hfall, ?_⟩
    rw [hout, sampleOut_outStream, List.append_assoc]
    rfl

end Sys2Proof.Machine

namespace Sys2Proof.Proofs.AsrStateMachine

open Sys2Proof Sys2Proof.Machine

/-- Settles O37: a transition keeps STATE or takes it to its successor, and the four edges are those of the
successor. -/
theorem onlyTheCycleIsTaken : Obligations.OnlyTheCycleIsTaken := by
  refine ⟨rfl, fun x s hdef => ⟨_, exec_step_of_defined hdef x, ?_⟩⟩
  rw [sampleOut_stream, stepStream_state]
  refine (asrTrn_state s.derived _).imp_right fun hnext => ?_
  rw [hnext]
  cases s.stream.state <;> decide

/-- Settles O39: the equation of the ATTACK row, with the bound of COUNTER below NA to keep its increment in 32 bits. -/
theorem attackRowCountsToSustain : Obligations.AttackRowCountsToSustain := by
  intro x s hdef hbound hattack
  have hrow := asrTrn_of_attack s.derived (r := { s.stream with peak := detUpd x s.stream.peak }) hattack
  refine ⟨_, exec_step_of_defined hdef x, ?_⟩
  rw [sampleOut_stream, stepStream_counter, stepStream_state, hrow]
  exact ⟨ofNat_counter_succ_toNat (hbound.1 hattack), fun hlast => if_pos hlast, fun hmore => if_neg hmore⟩

/-- Settles O42: both `STEP`s take STATE and COUNTER from `ASR.TRN`, which reads only what the two states share. -/
theorem transitionDependsOnStatePeakAndCounter : Obligations.TransitionDependsOnStatePeakAndCounter := by
  intro x y s u hs hu hstate hcounter hattack hrelease hhigh hlow
  refine ⟨_, _, exec_step_of_defined hs x, exec_step_of_defined hu y, ?_⟩
  simp only [sampleOut_stream, stepStream_peak, stepStream_state, stepStream_counter]
  exact fun hpeak => asrTrn_congr hstate hcounter hpeak hattack hrelease hhigh hlow

/-- Settles O46: the `STEP` from OFF that does not trigger, and the induction on the number of silent samples. -/
theorem silenceStaysOff : Obligations.SilenceStaysOff := by
  refine ⟨fun x s hdef hoff => ⟨_, exec_step_of_defined hdef x, fun hquiet => ?_⟩,
    fun n _ => runCommands_silence_of_off n⟩
  rw [sampleOut_stream, stepStream_peak] at hquiet
  have hstep := exec_step_of_off_untriggered hdef hoff hquiet
  rw [exec_step_of_defined hdef] at hstep
  rw [Host.Outcome.next.inj hstep]
  exact ⟨rfl, rfl⟩

end Sys2Proof.Proofs.AsrStateMachine

/-! SUPPORT. Synthesis (spec/43_oscillator_synthesis.md): the multiplier's magnitude (R197, R198), the envelope unit at
its first index (E1 of R195), one equation of `GEN.SYN` for each lifecycle state (R190), and the phase a `STEP` reads
and leaves (R199 to R201). -/

namespace Sys2Proof.Machine

/-! ### The multiplier -/

/-- The magnitude of the output is the product of the magnitudes, divided once and rounded down (R197). -/
theorem multiplier_natAbs (s : Int) (e v : Nat) : (multiplier s e v).natAbs = s.natAbs * e * v / 2 ^ 30 := by
  rw [multiplier, tz_natAbs, Int.natAbs_mul, Int.natAbs_mul, Int.natAbs_natCast, Int.natAbs_natCast]

/-- The multiplier answers 0 exactly for products below 2^30 in magnitude (R198). -/
theorem multiplier_eq_zero_iff {s : Int} {e v : Nat} : multiplier s e v = 0 ↔ s.natAbs * e * v < 2 ^ 30 := by
  rw [← Int.natAbs_eq_zero, multiplier_natAbs, Nat.div_eq_zero_iff_lt (by decide)]

/-- The extreme factors give 32767 in magnitude, and no factors give more (R198). -/
theorem multiplier_natAbs_le {s : Int} {e v : Nat} (hs : s.natAbs ≤ 32768) (he : e ≤ 32768) (hv : v ≤ 32767) :
    (multiplier s e v).natAbs ≤ 32767 := by
  rw [multiplier_natAbs]
  calc s.natAbs * e * v / 2 ^ 30
      ≤ 32768 * 32768 * 32767 / 2 ^ 30 := by gcongr
    _ = 32767 := by decide

/-- At envelope 0 the output is 0 whatever the carrier (R198). -/
@[simp] theorem multiplier_envelope_zero (s : Int) (v : Nat) : multiplier s 0 v = 0 :=
  multiplier_eq_zero_iff.2 (by simp)

/-! ### The envelope -/

/-- Every partial sum of the series vanishes at the angle 0. -/
@[simp] theorem sineNum_zero_angle (b n : Nat) : sineNum 0 b n = 0 := by
  induction n with
  | zero => rfl
  | succ n ih => simp [sineNum, ih]

/-- The rounded sine of the angle 0: half a unit, rounded down (S1 of R193). -/
@[simp] theorem sineRounded_zero_angle (b : Nat) : sineRounded 0 b = 0 := by
  rw [sineRounded, sineNum_zero_angle]
  generalize sineDen b sineTerms = v
  rcases Nat.eq_zero_or_pos v with rfl | hv
  · rfl
  · exact Int.ediv_eq_zero_of_lt (by omega) (by omega)

/-- The envelope starts at 0 (E1 of R195). -/
@[simp] theorem envq_zero (n : Nat) : envq 0 n = 0 := by
  rw [envq, Nat.mul_zero, sineRounded_zero_angle]
  rfl

/-! ### `GEN.SYN` in each state -/

section Synthesis

variable (d : DerivedRegs) {r : StreamRegs}

/-- The envelope rises with COUNTER in ATTACK (R194). -/
theorem envelope_of_attack (h : r.state = .attack) :
    envelope d r = envq r.counter.toNat (rampLength d.attackSamples) := by
  rw [envelope, h]

/-- The envelope is 1.0 in SUSTAIN (R194). -/
theorem envelope_of_sustain (h : r.state = .sustain) : envelope d r = 32768 := by
  rw [envelope, h]

/-- The envelope falls with COUNTER in RELEASE (R194). -/
theorem envelope_of_release (h : r.state = .release) :
    envelope d r =
      envq (rampLength d.releaseSamples - 1 - r.counter.toNat) (rampLength d.releaseSamples) := by
  rw [envelope, h]

/-- OFF is silent (R190). -/
theorem genSyn_of_off (h : r.state = .off) : genSyn d r = 0 := if_pos h

/-- The sample in ATTACK (R190). -/
theorem genSyn_of_attack (h : r.state = .attack) :
    genSyn d r =
      tz (sinq r.phase.toNat * envq r.counter.toNat (rampLength d.attackSamples) * d.outVolume.toNat)
        (2 ^ 30) := by
  rw [genSyn, if_neg (by simp [h]), envelope_of_attack d h, multiplier]

/-- The sample in SUSTAIN (R190). -/
theorem genSyn_of_sustain (h : r.state = .sustain) :
    genSyn d r = tz (sinq r.phase.toNat * 32768 * d.outVolume.toNat) (2 ^ 30) := by
  rw [genSyn, if_neg (by simp [h]), envelope_of_sustain d h, multiplier]
  rfl

/-- The sample in RELEASE (R190). -/
theorem genSyn_of_release (h : r.state = .release) :
    genSyn d r =
      tz (sinq r.phase.toNat *
        envq (rampLength d.releaseSamples - 1 - r.counter.toNat) (rampLength d.releaseSamples) *
          d.outVolume.toNat) (2 ^ 30) := by
  rw [genSyn, if_neg (by simp [h]), envelope_of_release d h, multiplier]

end Synthesis

/-! ### The phase of a `STEP` -/

/-- The phase before the advance of a `STEP` that starts with the registers `r` and gives a tone: 0 on entry to ATTACK
(R190, R199). -/
def carrierPhase (r : StreamRegs) : Word := if r.state = .off then 0#32 else r.phase

/-- The phase before the advance, as a number. -/
theorem carrierPhase_toNat (r : StreamRegs) :
    (carrierPhase r).toNat = if r.state = .off then 0 else r.phase.toNat :=
  apply_ite BitVec.toNat ..

/-- Entry to ATTACK leaves the phase in range (R40). -/
theorem carrierPhase_le {r : StreamRegs} (h : r.phase.toNat ≤ Config.twoPiFx) :
    (carrierPhase r).toNat ≤ Config.twoPiFx := by
  rw [carrierPhase_toNat]
  split
  · exact Nat.zero_le _
  · exact h

/-- `ASR.TRN` clears PHASE on entry to ATTACK and keeps it on every other row (R172 to R175). -/
theorem asrTrn_phase (d : DerivedRegs) (r : StreamRegs) :
    (asrTrn d r).phase = if (asrTrn d r).state = .off then r.phase else carrierPhase r := by
  unfold carrierPhase
  cases h : r.state with
  | off =>
    rw [asrTrn_of_off d h]
    split <;> rfl
  | attack => simp [asrTrn_of_attack d h]
  | sustain =>
    rw [asrTrn_of_sustain d h]
    split <;> simp
  | release => simp [asrTrn_of_release d h]

/-- `DET.UPD` and `ASR.TRN` together: PEAK has no part in the phase (R171). -/
theorem afterTransition_phase (d : DerivedRegs) (x : Int) (r : StreamRegs) :
    (afterTransition d x r).phase =
      if (afterTransition d x r).state = .off then r.phase else carrierPhase r :=
  asrTrn_phase d _

/-- What `OSC.ADV` wrote is lost when PHASE is overwritten, since it writes PHASE alone (R199). -/
theorem oscAdv_with_phase (d : DerivedRegs) (r : StreamRegs) (p : Word) :
    { oscAdv d r with phase := p } = { r with phase := p } := by
  obtain ⟨_, h⟩ | ⟨_, h⟩ := oscAdv_cases d r <;> rw [h]

/-- The sample of a `STEP` is `GEN.SYN` of the new STATE and COUNTER at the phase before the advance (R190, R203). -/
theorem stepOutput_eq_genSyn (d : DerivedRegs) (x : Int) (r : StreamRegs) :
    stepOutput d x r = genSyn d { stepStream d x r with phase := carrierPhase r } := by
  rw [stepOutput, stepStream, oscAdv_with_phase]
  have hphase := afterTransition_phase d x r
  by_cases hoff : (afterTransition d x r).state = .off
  · rw [genSyn_of_off d hoff]
    exact Eq.symm (genSyn_of_off d hoff)
  · rw [if_neg hoff] at hphase
    rw [← hphase]

/-- A `STEP` that ends in OFF keeps PHASE (R201). -/
theorem stepStream_phase_of_off {d : DerivedRegs} {x : Int} {r : StreamRegs}
    (h : (stepStream d x r).state = .off) : (stepStream d x r).phase = r.phase := by
  have hoff : (afterTransition d x r).state = .off := (oscAdv_frame d _).2.1.symm.trans h
  rw [stepStream, oscAdv, if_pos hoff, afterTransition_phase, if_pos hoff]

/-- Any other `STEP` advances the phase, and no bit of it is lost (R199, R200). -/
theorem stepStream_phase_of_ne_off {d : DerivedRegs} {x : Int} {r : StreamRegs}
    (hphase : r.phase.toNat ≤ Config.twoPiFx) (hstep : d.angleStep.toNat < Config.twoPiFx)
    (h : (stepStream d x r).state ≠ .off) :
    (stepStream d x r).phase.toNat = advancePhase (carrierPhase r).toNat d.angleStep.toNat := by
  have htone : (afterTransition d x r).state ≠ .off := fun hoff => h ((oscAdv_frame d _).2.1.trans hoff)
  have hrange := advancePhase_le (carrierPhase_le hphase) hstep
  rw [stepStream, oscAdv, if_neg htone, afterTransition_phase, if_neg htone]
  exact (BitVec.toNat_ofNat ..).trans (Nat.mod_eq_of_lt (hrange.trans_lt (by decide)))

/-- A `STEP` keeps PHASE in its closed range (R200). -/
theorem stepStream_phase_le {d : DerivedRegs} {x : Int} {r : StreamRegs}
    (hphase : r.phase.toNat ≤ Config.twoPiFx) (hstep : d.angleStep.toNat < Config.twoPiFx) :
    (stepStream d x r).phase.toNat ≤ Config.twoPiFx := by
  by_cases hoff : (stepStream d x r).state = .off
  · rw [stepStream_phase_of_off hoff]
    exact hphase
  · rw [stepStream_phase_of_ne_off hphase hstep hoff]
    exact advancePhase_le (carrierPhase_le hphase) hstep

end Sys2Proof.Machine

namespace Sys2Proof.Proofs.OscillatorSynthesis

open Sys2Proof Sys2Proof.Machine

/-- Settles O51: the range and the zeros are those of the magnitude of the quotient. -/
theorem multiplierNeedsNoSaturation : Obligations.MultiplierNeedsNoSaturation := by
  intro s e v hs he hv
  have hrange := multiplier_natAbs_le hs he hv
  refine ⟨by omega, by omega, fun hzero => multiplier_eq_zero_iff.2 ?_⟩
  rw [Int.natAbs_mul, Int.natAbs_mul, Int.natAbs_natCast, Int.natAbs_natCast] at hzero
  obtain rfl | rfl | rfl | hsmall := hzero
  · simp
  · simp
  · simp
  · exact hsmall

/-- Settles O52: the sample is `GEN.SYN` of the new STATE and COUNTER at the phase before the advance, read state by
state; `STEP` writes the stream registers and the output alone. -/
theorem stepOutputsTheShapedCarrier : Obligations.StepOutputsTheShapedCarrier := by
  intro x s hdef
  refine ⟨_, exec_step_of_defined hdef x, ?_, rfl, rfl, hdef, rfl, rfl⟩
  simp only [sampleOut_outPort, sampleOut_stream]
  rw [stepOutput_eq_genSyn, ← carrierPhase_toNat]
  congr 2
  generalize stepStream s.derived x s.stream = r
  cases hstate : r.state with
  | off => exact genSyn_of_off _ hstate
  | attack => exact genSyn_of_attack _ hstate
  | sustain => exact genSyn_of_sustain _ hstate
  | release => exact genSyn_of_release _ hstate

/-- Settles O53: the phase kept in OFF and advanced elsewhere, its range, and the phase that the sample was made
from. -/
theorem phaseAdvancesWithOneSubtraction : Obligations.PhaseAdvancesWithOneSubtraction := by
  intro x s hdef hphase hangle
  refine ⟨_, exec_step_of_defined hdef x, stepStream_phase_le hphase hangle, stepStream_phase_of_off,
    fun htone => ?_, congrArg (fun v => some (sampleBits v)) (stepOutput_eq_genSyn ..)⟩
  rw [← carrierPhase_toNat]
  exact stepStream_phase_of_ne_off hphase hangle htone

/-- Settles O55: with one ramp length N, the two counters add up to N - 1, so both envelopes ask `ENVQ` for the same
index; at the index 0 it gives 0. -/
theorem releaseMirrorsAttack : Obligations.ReleaseMirrorsAttack := by
  intro d r q hcounts hattack hrelease hsum
  have hmirror : rampLength d.attackSamples - 1 - q.counter.toNat = r.counter.toNat := by
    unfold rampLength
    omega
  have heq : envelope d r = envelope d q := by
    rw [envelope_of_attack d hattack, envelope_of_release d hrelease, ← hcounts, hmirror]
  refine ⟨heq, fun hfirst => ?_⟩
  have hzero : envelope d q = 0 := by
    rw [← heq, envelope_of_attack d hattack, hfirst]
    exact envq_zero _
  refine ⟨hzero, ?_⟩
  rw [genSyn, hzero, multiplier_envelope_zero, ite_self]

end Sys2Proof.Proofs.OscillatorSynthesis

/-! SUPPORT. `STEP` and `NOP` (spec/44_step.md): a ramp's COUNTER through a transition (R41), the commuting square of
each micro-operation with its part of the listing (R220), the distance of the sine's series to the sine, which bounds
the two units (R193, R195), and with it the output sample (R222). -/

namespace Sys2Proof.Machine

/-! ### COUNTER in its ramp -/

/-- COUNTER counts a sample of the ramp it is in: `CounterBounded`, on the registers it reads (R41). -/
def CountsWithinRamp (d : DerivedRegs) (r : StreamRegs) : Prop :=
  (r.state = .attack → r.counter.toNat < rampLength d.attackSamples) ∧
  (r.state = .release → r.counter.toNat < rampLength d.releaseSamples)

theorem counterBounded_iff {s : State} : CounterBounded s ↔ CountsWithinRamp s.derived s.stream := Iff.rfl

/-- A ramp has at least one sample (R176). -/
theorem rampLength_pos (count : Word) : 0 < rampLength count := Nat.lt_of_lt_of_le Nat.one_pos (le_max_right _ _)

/-- The next count of a ramp is in the ramp, unless it ends the ramp (R173, R175). -/
theorem ofNat_counter_succ_lt {counter count : Word} (h : counter.toNat < rampLength count)
    (hmore : counter.toNat + 1 ≠ rampLength count) :
    (BitVec.ofNat 32 (counter.toNat + 1)).toNat < rampLength count :=
  (ofNat_counter_succ_toNat h).trans_lt (Nat.lt_of_le_of_ne h hmore)

/-- `ASR.TRN` keeps COUNTER in its ramp: a ramp begins at 0, and the row that ends it leaves it (R41). -/
theorem asrTrn_countsWithinRamp {d : DerivedRegs} {r : StreamRegs} (h : CountsWithinRamp d r) :
    CountsWithinRamp d (asrTrn d r) := by
  obtain ⟨hattack, hrelease⟩ := h
  obtain ⟨_, _, heq⟩ | ⟨_, _, heq⟩ | ⟨_, _, heq⟩ | ⟨hr, hmore, heq⟩ | ⟨_, _, heq⟩ | ⟨_, _, heq⟩ | ⟨_, _, heq⟩ |
    ⟨hr, hmore, heq⟩ := asrTrn_cases d r <;> rw [heq]
  · exact ⟨fun _ => rampLength_pos _, nofun⟩
  · exact ⟨hattack, hrelease⟩
  · exact ⟨nofun, nofun⟩
  · exact ⟨fun _ => ofNat_counter_succ_lt (hattack hr) hmore, fun hr' => (nomatch hr.symm.trans hr')⟩
  · exact ⟨nofun, fun _ => rampLength_pos _⟩
  · exact ⟨hattack, hrelease⟩
  · exact ⟨nofun, nofun⟩
  · exact ⟨fun hr' => (nomatch hr.symm.trans hr'), fun _ => ofNat_counter_succ_lt (hrelease hr) hmore⟩

/-- `DET.UPD` and `ASR.TRN` together: PEAK has no part in the bound (R41). -/
theorem afterTransition_countsWithinRamp {d : DerivedRegs} {r : StreamRegs} (h : CountsWithinRamp d r) (x : Int) :
    CountsWithinRamp d (afterTransition d x r) := asrTrn_countsWithinRamp (r := { r with peak := _ }) h

/-- A `STEP` keeps COUNTER in its ramp, since `OSC.ADV` writes PHASE alone (R41). -/
theorem stepStream_countsWithinRamp {d : DerivedRegs} {r : StreamRegs} (h : CountsWithinRamp d r) (x : Int) :
    CountsWithinRamp d (stepStream d x r) := by
  obtain ⟨_, hstate, hcounter⟩ := oscAdv_frame d (afterTransition d x r)
  rw [CountsWithinRamp, stepStream, hstate, hcounter]
  exact afterTransition_countsWithinRamp h x

/-! ### The listing -/

section Listing

open Sys2Proof.Listing

variable {d : DerivedRegs} {r : StreamRegs}

/-- `DET.UPD` is part 1 of the listing (R150, R220). -/
theorem part1_quantitiesOf {x : Int} (hx : SampleInRange x) :
    part1 x (quantitiesOf r) = quantitiesOf { r with peak := detUpd x r.peak } := by
  rw [quantitiesOf, quantitiesOf, detUpd_toNat hx]
  rfl

/-- `ASR.TRN` is part 2 of the listing, row by row (R171 to R175, R220). -/
theorem part2_quantitiesOf (h : CountsWithinRamp d r) :
    part2 (parametersOf d) (quantitiesOf r) = quantitiesOf (asrTrn d r) := by
  obtain ⟨peak, state, counter, phase⟩ := r
  obtain ⟨hattack, hrelease⟩ := h
  cases state with
  | off =>
    rw [asrTrn_of_off d rfl, apply_ite quantitiesOf]
    simp only [aboveHi, decide_eq_true_eq]
    rfl
  | attack =>
    rw [asrTrn_of_attack d rfl, quantitiesOf, quantitiesOf, ofNat_counter_succ_toNat (hattack rfl)]
    rfl
  | sustain =>
    rw [asrTrn_of_sustain d rfl, apply_ite quantitiesOf]
    simp only [belowLo, decide_eq_true_eq]
    rfl
  | release =>
    rw [asrTrn_of_release d rfl, quantitiesOf, quantitiesOf, ofNat_counter_succ_toNat (hrelease rfl)]
    rfl

/-- `GEN.SYN` is part 3 of the listing, state by state (R190, R220). -/
theorem part3_quantitiesOf (d : DerivedRegs) (r : StreamRegs) :
    part3 (parametersOf d) (quantitiesOf r) = genSyn d r := by
  obtain ⟨peak, state, counter, phase⟩ := r
  cases state with
  | off => exact (genSyn_of_off d rfl).symm
  | attack => exact (genSyn_of_attack d rfl).symm
  | sustain => exact (genSyn_of_sustain d rfl).symm
  | release => exact (genSyn_of_release d rfl).symm

/-- No bit of an advanced phase is lost (R200). -/
theorem ofNat_advancePhase_toNat {phase step : Nat} (h : phase ≤ Config.twoPiFx) (hs : step < Config.twoPiFx) :
    (BitVec.ofNat 32 (advancePhase phase step)).toNat = advancePhase phase step :=
  (BitVec.toNat_ofNat ..).trans (Nat.mod_eq_of_lt ((advancePhase_le h hs).trans_lt (by decide)))

/-- `OSC.ADV` is part 4 of the listing (R199, R220). -/
theorem part4_quantitiesOf (hphase : r.phase.toNat ≤ Config.twoPiFx) (hstep : d.angleStep.toNat < Config.twoPiFx) :
    part4 (parametersOf d) (quantitiesOf r) = quantitiesOf (oscAdv d r) := by
  obtain ⟨hoff, heq⟩ | ⟨htone, heq⟩ := oscAdv_cases d r
  · rw [heq, part4, quantitiesOf, hoff]
  · rw [heq, part4, quantitiesOf, quantitiesOf, ofNat_advancePhase_toNat hphase hstep]
    cases hstate : r.state with
    | off => exact absurd hstate htone
    | _ => rfl

/-- The phase that `GEN.SYN` reads is in range (R40). -/
theorem afterTransition_phase_le (d : DerivedRegs) (x : Int) (h : r.phase.toNat ≤ Config.twoPiFx) :
    (afterTransition d x r).phase.toNat ≤ Config.twoPiFx := by
  rw [afterTransition_phase]
  split
  · exact h
  · exact carrierPhase_le h

/-- The four squares, one after another: a `STEP` on the words is the listing (R220). -/
theorem run_quantitiesOf {x : Int} (hx : SampleInRange x) (hcounter : CountsWithinRamp d r)
    (hphase : r.phase.toNat ≤ Config.twoPiFx) (hstep : d.angleStep.toNat < Config.twoPiFx) :
    run (parametersOf d) x (quantitiesOf r) = (quantitiesOf (stepStream d x r), stepOutput d x r) := by
  have htransition : part2 (parametersOf d) (part1 x (quantitiesOf r)) = quantitiesOf (afterTransition d x r) := by
    rw [part1_quantitiesOf hx]
    exact part2_quantitiesOf hcounter
  rw [run, htransition, part3_quantitiesOf, part4_quantitiesOf (afterTransition_phase_le d x hphase) hstep]
  rfl

end Listing

/-! ### The range of the sine and the envelope units -/

/-- The partial sum of the series of the sine to the power 2n - 1. -/
noncomputable def sineSeries (x : ℝ) (n : Nat) : ℝ :=
  ∑ j ∈ Finset.range n, (-1) ^ j * x ^ (2 * j + 1) / ((2 * j + 1).factorial : ℝ)

/-- The terms of the series of `exp (x * I)` in pairs: the second of each pair is a term of the sine's series. -/
theorem sineSeries_eq_im (x : ℝ) (n : Nat) :
    sineSeries x n = (∑ m ∈ Finset.range (2 * n), ((x : ℂ) * Complex.I) ^ m / (m.factorial : ℂ)).im := by
  induction n with
  | zero => simp [sineSeries]
  | succ n ih =>
    have heven : (((x : ℂ) * Complex.I) ^ (2 * n) / ((2 * n).factorial : ℂ)).im = 0 := by
      have h : ((x : ℂ) * Complex.I) ^ (2 * n) / ((2 * n).factorial : ℂ) =
          (((-1) ^ n * x ^ (2 * n) / ((2 * n).factorial : ℝ) : ℝ) : ℂ) := by
        rw [mul_pow, pow_mul Complex.I, Complex.I_sq]
        push_cast
        ring
      rw [h, Complex.ofReal_im]
    have hodd : (((x : ℂ) * Complex.I) ^ (2 * n + 1) / ((2 * n + 1).factorial : ℂ)).im =
        (-1) ^ n * x ^ (2 * n + 1) / ((2 * n + 1).factorial : ℝ) := by
      have h : ((x : ℂ) * Complex.I) ^ (2 * n + 1) / ((2 * n + 1).factorial : ℂ) =
          (((-1) ^ n * x ^ (2 * n + 1) / ((2 * n + 1).factorial : ℝ) : ℝ) : ℂ) * Complex.I := by
        rw [mul_pow, pow_succ Complex.I, pow_mul Complex.I, Complex.I_sq]
        push_cast
        ring
      rw [h, Complex.mul_I_im, Complex.ofReal_re]
    rw [sineSeries, Finset.sum_range_succ, ← sineSeries, ih, Nat.mul_succ, Finset.sum_range_succ,
      Finset.sum_range_succ, Complex.add_im, Complex.add_im, heven, hodd, add_zero]

/-- The partial sum is off the sine by at most twice the first power left out of the exponential series. -/
theorem abs_sin_sub_sineSeries_le {x : ℝ} {n : Nat} (hx : |x| / (2 * n + 1) ≤ 1 / 2) :
    |Real.sin x - sineSeries x n| ≤ |x| ^ (2 * n) / ((2 * n).factorial : ℝ) * 2 := by
  have hnorm : ‖(x : ℂ) * Complex.I‖ = |x| := by simp
  have hexp := Complex.exp_bound' (x := (x : ℂ) * Complex.I) (n := 2 * n) (by rw [hnorm]; push_cast; exact hx)
  rw [hnorm] at hexp
  rw [sineSeries_eq_im, ← Complex.exp_ofReal_mul_I_im, ← Complex.sub_im]
  exact (Complex.abs_im_le_norm _).trans hexp

/-- Up to the angle 7, more than a turn, the 31 terms kept give no value beyond 1 by 2^-20. -/
theorem abs_sineSeries_le {x : ℝ} (hx : |x| ≤ 7) : |sineSeries x (sineTerms + 1)| ≤ 1 + 1 / 2 ^ 20 := by
  have hclose := abs_sin_sub_sineSeries_le (x := x) (n := sineTerms + 1) (by unfold sineTerms; norm_num; linarith)
  have htail : |x| ^ (2 * (sineTerms + 1)) / ((2 * (sineTerms + 1)).factorial : ℝ) * 2 ≤ 1 / 2 ^ 20 := by
    calc |x| ^ (2 * (sineTerms + 1)) / ((2 * (sineTerms + 1)).factorial : ℝ) * 2
        ≤ 7 ^ (2 * (sineTerms + 1)) / ((2 * (sineTerms + 1)).factorial : ℝ) * 2 := by gcongr
      _ ≤ 1 / 2 ^ 20 := by norm_num [sineTerms, Nat.factorial]
  have hsin := Real.abs_sin_le_one x
  rw [abs_le] at hclose hsin ⊢
  constructor <;> linarith

/-- The rounded sine stays within 1.0, up to the angle 7 (S3 of R193, E2 of R195). -/
theorem sineRounded_natAbs_le {a b : Nat} (hb : 0 < b) (ha : a ≤ 7 * b) : (sineRounded a b).natAbs ≤ 32768 := by
  have hb' : (0 : ℝ) < b := by exact_mod_cast hb
  have hangle : |(a : ℝ) / b| ≤ 7 := by
    rw [abs_of_nonneg (by positivity), div_le_iff₀ hb']
    exact_mod_cast ha
  obtain ⟨hlo, hhi⟩ := abs_le.1 (abs_sineSeries_le hangle)
  obtain ⟨hle, hlt⟩ := sineRounded_bounds a b hb
  rw [sineNum_div_sineDen a b hb, ← sineSeries] at hle hlt
  have hupper : sineRounded a b < 32769 := by
    have : (sineRounded a b : ℝ) < 32769 := by linarith
    exact_mod_cast this
  have hlower : -32769 < sineRounded a b := by
    have : (-32769 : ℝ) < sineRounded a b := by linarith
    exact_mod_cast this
  omega

/-- The sine unit stays within 1.0 on the phase's range (S3 of R193). -/
theorem sinq_natAbs_le {p : Nat} (h : p ≤ Config.twoPiFx) : (sinq p).natAbs ≤ 32768 :=
  sineRounded_natAbs_le (by decide) (h.trans (by decide))

/-- The envelope unit stays within 1.0 on its domain (E2 of R195). -/
theorem envq_le {k n : Nat} (h : k < n) : envq k n ≤ 32768 := by
  have hangle : piFx160 * k ≤ 7 * (2 ^ 161 * n) := by
    rw [← Nat.mul_assoc]
    exact Nat.mul_le_mul (by decide) h.le
  have hrange := sineRounded_natAbs_le (Nat.mul_pos (by decide) (Nat.zero_lt_of_lt h)) hangle
  rw [envq]
  omega

/-! ### The range of the output sample and of PEAK -/

/-- With COUNTER in its ramp the envelope is a value of the envelope unit's domain (R194). -/
theorem envelope_le {d : DerivedRegs} {r : StreamRegs} (h : CountsWithinRamp d r) : envelope d r ≤ 32768 := by
  obtain ⟨hattack, hrelease⟩ := h
  cases hstate : r.state with
  | off => rw [envelope, hstate]; exact Nat.zero_le _
  | attack => rw [envelope_of_attack d hstate]; exact envq_le (hattack hstate)
  | sustain => exact (envelope_of_sustain d hstate).le
  | release =>
    have hlt := hrelease hstate
    rw [envelope_of_release d hstate]
    exact envq_le (by omega)

/-- `GEN.SYN` within the invariants gives a sample of magnitude at most 32767 (R198, R222). -/
theorem genSyn_natAbs_le {d : DerivedRegs} {r : StreamRegs} (hcounter : CountsWithinRamp d r)
    (hphase : r.phase.toNat ≤ Config.twoPiFx) : (genSyn d r).natAbs ≤ 32767 := by
  unfold genSyn
  split
  · exact Nat.zero_le _
  · exact multiplier_natAbs_le (sinq_natAbs_le hphase) (envelope_le hcounter) (Nat.le_of_lt_succ d.outVolume.isLt)

/-- `DET.UPD` keeps PEAK in range (R42). -/
theorem detUpd_toNat_le {x : Int} (hx : SampleInRange x) {peak : Word} (h : peak.toNat ≤ 32768 * 2 ^ 16) :
    (detUpd x peak).toNat ≤ 32768 * 2 ^ 16 := by
  rw [detUpd_toNat hx]
  split
  · exact magnitudeFx_le hx
  · exact (decay_le _).trans h

/-- `STEP` keeps the invariants (R222). -/
theorem inv_of_step {x : Int} {s : State} (hx : SampleInRange x) (hdef : s.defined = true) (h : Inv s) :
    Inv (sampleOut (stepOutput s.derived x s.stream) { s with stream := stepStream s.derived x s.stream }) where
  peak _ := (congrArg BitVec.toNat (stepStream_peak ..)).trans_le (detUpd_toNat_le hx (h.peak hdef))
  phase _ := stepStream_phase_le (h.phase hdef) (h.angleStep hdef)
  counter _ := counterBounded_iff.2 (stepStream_countsWithinRamp (counterBounded_iff.1 (h.counter hdef)) x)
  angleStep _ := h.angleStep hdef

end Sys2Proof.Machine

namespace Sys2Proof.Proofs.Step

open Sys2Proof Sys2Proof.Machine

/-- Settles O57: the word by evaluation, the state because `quiet` only deasserts `out_valid`. -/
theorem nopChangesNothing : Obligations.NopChangesNothing := ⟨by decide, fun _ => rfl⟩

/-- Settles O56, from the commuting squares of the four micro-operations; `STEP` writes the stream registers and the
output alone. -/
theorem stepFollowsTheListing : Obligations.StepFollowsTheListing := by
  intro x s hdef hinv hx
  have hrun := run_quantitiesOf hx (counterBounded_iff.1 (hinv.counter hdef)) (hinv.phase hdef) (hinv.angleStep hdef)
  exact ⟨_, _, exec_step_of_defined hdef x, hrun, rfl, rfl, rfl, rfl, hdef, rfl, rfl, opField_encode _⟩

/-- Settles O58: the invariants bound the phase and the ramp's count that `GEN.SYN` reads, so the two units stay within
1.0 and the product within the sample's range. -/
theorem stepIsTotalWithinTheInvariants : Obligations.StepIsTotalWithinTheInvariants := by
  intro x s hdef hinv hx
  have hcounter := afterTransition_countsWithinRamp (counterBounded_iff.1 (hinv.counter hdef)) x
  have hsample : (stepOutput s.derived x s.stream).natAbs ≤ 32767 :=
    genSyn_natAbs_le hcounter (afterTransition_phase_le s.derived x (hinv.phase hdef))
  have hrange : SampleInRange (stepOutput s.derived x s.stream) := by
    unfold SampleInRange
    omega
  exact ⟨_, _, exec_step_of_defined hdef x, hdef, inv_of_step hx hdef hinv, by omega, by omega, rfl,
    sext16_sampleBits hrange, rfl⟩

end Sys2Proof.Proofs.Step

/-! SUPPORT. One moment between two commands (spec/20_memory.md rule R62, spec/60_exceptions.md rules R243, R251): an
equation for each thing the ports can drive, what an accepted command can be, and the registers' properties that every
moment keeps, taken from one step to all states a host can bring the machine to. -/

namespace Sys2Proof.Machine

/-! ### One moment -/

section Moment

variable {s : State} {p : PortInput} {rest : List PortInput}

/-- A moment in which a command word is accepted (R62). -/
theorem step_of_word (hp : s.portIn = p :: rest) (hr : p.rst = false) (hv : p.cmdValid = true) :
    step s = runWord p.cmd { s with portIn := rest } := by
  simp [step, nextMoment, drive, acceptedWord, cmdReady, hp, hr, hv]

/-- A moment in which the word accepted is that of a command (R62). -/
theorem step_of_command {i : Instr} (hp : s.portIn = p :: rest) (hr : p.rst = false) (hv : p.cmdValid = true)
    (hi : decode p.cmd = .ok i) : step s = exec i { s with portIn := rest } := by
  rw [step_of_word hp hr hv, runWord, hi]

/-- A moment in which the word accepted has a reserved opcode (R95). -/
theorem step_of_reserved (hp : s.portIn = p :: rest) (hr : p.rst = false) (hv : p.cmdValid = true)
    (hop : 10 ≤ (opField p.cmd).toNat) : step s = .refused (.reservedOpcode (opField p.cmd)) := by
  rw [step_of_word hp hr hv, runWord, decode_reserved hop]

/-- A moment in which nothing is driven (R251). -/
theorem step_of_idle (h : ∀ p ∈ s.portIn.head?, p.rst = false ∧ p.cmdValid = false) :
    step s = .next { s with portIn := s.portIn.tail, outPort := none } := by
  cases hp : s.portIn with
  | nil => simp [step, nextMoment, hp, quiet]
  | cons p rest =>
    obtain ⟨hr, hv⟩ := h p (by rw [hp]; rfl)
    simp [step, nextMoment, drive, acceptedWord, hp, hr, hv, quiet]

end Moment

/-- A word holds a command whose operand is in range, or a reserved opcode (R95, R96). -/
theorem decode_cases (w : CmdWord) :
    (∃ i : Instr, i.WellFormed ∧ decode w = .ok i) ∨ 10 ≤ (opField w).toNat := by
  rcases Nat.lt_or_ge (opField w).toNat 10 with hop | hop
  · obtain ⟨i, hi, _, hwf, _⟩ := exists_decodesTo (argField w) (Nat.le_of_lt_succ hop)
    rw [opField_append_argField] at hi
    exact .inl ⟨i, hwf, hi⟩
  · exact .inr hop

/-- What a step can do: idle, take the reset, run a command whose operand is in range, or refuse a reserved opcode
(R62, R95, R243, R251). -/
theorem step_cases (s : State) :
    step s = .next { s with portIn := s.portIn.tail, outPort := none } ∨
    step s = .next (takeReset { s with portIn := s.portIn.tail }) ∨
    (∃ i : Instr, i.WellFormed ∧ step s = exec i { s with portIn := s.portIn.tail }) ∨
    ∃ p rest, s.portIn = p :: rest ∧ p.rst = false ∧ p.cmdValid = true ∧ 10 ≤ (opField p.cmd).toNat ∧
      step s = .refused (.reservedOpcode (opField p.cmd)) := by
  by_cases hidle : ∀ p ∈ s.portIn.head?, p.rst = false ∧ p.cmdValid = false
  · exact .inl (step_of_idle hidle)
  right
  cases hp : s.portIn with
  | nil => simp [hp] at hidle
  | cons p rest =>
    cases hr : p.rst with
    | true => exact .inl (step_of_rst hp hr)
    | false =>
      have hv : p.cmdValid = true := by simpa [hp, hr] using hidle
      obtain ⟨i, hwf, hi⟩ | hop := decode_cases p.cmd
      · exact .inr (.inl ⟨i, hwf, step_of_command hp hr hv hi⟩)
      · exact .inr (.inr ⟨p, rest, rfl, hr, hv, hop, step_of_reserved hp hr hv hop⟩)

/-! ### Properties of the registers that every moment keeps -/

/-- `P` speaks of the registers and of their having a value alone, holds after reset, and is kept by every command
whose operand is in range. -/
structure KeptByCommands (P : State → Prop) : Prop where
  registers {s t : State} : P s → SameRegisters s t → s.defined = t.defined → P t
  reset : P State.reset
  command {i : Instr} {s t : State} : i.WellFormed → P s → exec i s = .next t → P t

namespace KeptByCommands

variable {P : State → Prop}

/-- Such a property is kept by every step. -/
theorem step {s t : State} (hP : KeptByCommands P) (hs : P s) (h : Machine.step s = .next t) : P t := by
  have hrest : P { s with portIn := s.portIn.tail } := hP.registers hs ⟨rfl, rfl, rfl⟩ rfl
  obtain hidle | hreset | ⟨i, hwf, hrun⟩ | ⟨_, _, _, _, _, _, hrefused⟩ := step_cases s
  · cases h.symm.trans hidle
    exact hP.registers hs ⟨rfl, rfl, rfl⟩ rfl
  · cases h.symm.trans hreset
    exact hP.registers hP.reset ⟨rfl, rfl, rfl⟩ rfl
  · exact hP.command hwf hrest (hrun.symm.trans h)
  · cases h.symm.trans hrefused

/-- Such a property holds in every state a host can bring the machine to. -/
theorem reachable {s : State} (hP : KeptByCommands P) (h : Reachable s) : P s := by
  induction h with
  | reset => exact hP.reset
  | present _ _ ih => exact hP.registers ih ⟨rfl, rfl, rfl⟩ rfl
  | step _ hstep ih => exact hP.step ih hstep

end KeptByCommands

/-! ### The invariants (spec/10_state.md section 6) -/

/-- The invariants speak of registers with a value alone. -/
theorem inv_of_undefined {s : State} (h : s.defined = false) : Inv s := by
  constructor <;> exact fun hdef => absurd (h.symm.trans hdef) (by decide)

/-- The initial stream state meets its bounds, whatever the ramps (R45, R128). -/
theorem inv_of_initial {s : State} (hstream : s.stream = .initial) (hangle : AngleStepBounded s) : Inv s where
  peak _ := by rw [PeakBounded, hstream]; exact Nat.zero_le _
  phase _ := by rw [PhaseBounded, hstream]; exact Nat.zero_le _
  counter _ := by rw [CounterBounded, hstream]; exact ⟨nofun, nofun⟩
  angleStep _ := hangle

/-- The invariants are about the derived and the stream registers. -/
theorem inv_congr {s t : State} (h : Inv s) (hderived : s.derived = t.derived) (hstream : s.stream = t.stream)
    (hdef : s.defined = t.defined) : Inv t := by
  obtain ⟨hpeak, hphase, hcounter, hangle⟩ := h
  rw [PeakBounded, PhaseBounded, CounterBounded, AngleStepBounded, hderived, hstream, hdef] at *
  exact ⟨hpeak, hphase, hcounter, hangle⟩

theorem inv_reset : Inv State.reset := inv_of_initial rfl (by decide)

/-- Every command keeps the invariants (R39 to R42). -/
theorem inv_of_exec {i : Instr} {s t : State} (hwf : i.WellFormed) (hs : Inv s) (h : exec i s = .next t) :
    Inv t := by
  refine exec_cases (P := Inv) h
    (nop := ?nop) (set := ?set) (legal := ?legal) (illegal := ?illegal) (run := ?run) (free := ?free)
  case nop => exact fun _ => inv_congr hs rfl rfl rfl
  case set => exact fun _ _ _ _ => inv_congr hs rfl rfl rfl
  case legal =>
    rintro - ⟨_, htone, _⟩
    exact inv_of_initial rfl ((derive_angleStep_toNat htone).trans_lt (angleStepOf_lt htone))
  case illegal => exact fun _ _ => inv_of_undefined rfl
  case run =>
    rintro x rfl hdef
    exact inv_of_step (of_decide_eq_true hwf) hdef hs
  case free => exact fun _ _ _ => inv_of_undefined rfl

/-- The invariants are kept by whatever a host does. -/
theorem inv_keptByCommands : KeptByCommands Inv where
  registers := fun h ⟨_, hderived, hstream⟩ => inv_congr h hderived hstream
  reset := inv_reset
  command := inv_of_exec

/-! ### Where the derived registers come from (R120) -/

/-- `INIT` alone writes the derived registers, and where they then have a value the configuration was legal (R128,
R129). -/
theorem derivedFromLegal_of_exec {i : Instr} {s t : State} (hs : DerivedFromLegal s) (h : exec i s = .next t) :
    DerivedFromLegal t := by
  refine exec_cases (P := DerivedFromLegal) h
    (nop := ?nop) (set := ?set) (legal := ?legal) (illegal := ?illegal) (run := ?run) (free := ?free)
  case nop => exact fun _ => hs
  case set => exact fun _ _ _ _ => hs
  case legal => exact fun _ hlegal _ => ⟨s.config, hlegal, rfl⟩
  case illegal => exact fun _ _ => nofun
  case run => exact fun _ _ _ => hs
  case free => exact fun _ _ _ => nofun

/-- The origin of the derived registers is kept by whatever a host does. -/
theorem derivedFromLegal_keptByCommands : KeptByCommands DerivedFromLegal where
  registers := by
    rintro s t h ⟨_, hderived, _⟩ hdef
    rwa [DerivedFromLegal, hderived, hdef] at h
  reset := fun _ => ⟨State.reset.config, cfgLegal_reset, derive_reset.symm⟩
  command := fun _ => derivedFromLegal_of_exec

end Sys2Proof.Machine

namespace Sys2Proof.Proofs.Other

open Sys2Proof Sys2Proof.Machine

/-- Settles O6: the stream starts at the initial state, and 42165742 is below one turn. -/
theorem invariantsHoldAfterReset : Obligations.InvariantsHoldAfterReset := inv_reset

/-- Settles O7, from the commands one by one: a step runs a command, takes the reset or holds the registers. -/
theorem invariantsAreKeptByEveryStep : Obligations.InvariantsAreKeptByEveryStep :=
  fun _ _ => inv_keptByCommands.step

/-- Settles O8, by induction on how the host brought the machine to the state. -/
theorem invariantsHoldInEveryReachableState : Obligations.InvariantsHoldInEveryReachableState :=
  fun _ => inv_keptByCommands.reachable

/-- Settles O9: the origin is kept by every command, so by every step and along every run from reset. -/
theorem derivedRegistersComeFromOneLegalConfiguration :
    Obligations.DerivedRegistersComeFromOneLegalConfiguration :=
  ⟨fun _ _ => derivedFromLegal_keptByCommands.step, fun _ => derivedFromLegal_keptByCommands.reachable⟩

/-- Settles O2, from the equation of the reset event. -/
theorem rstTakesEveryRegisterToReset : Obligations.RstTakesEveryRegisterToReset :=
  fun _ _ _ hp hr => ⟨_, step_of_rst hp hr, ⟨rfl, rfl, rfl⟩, rfl, rfl, rfl, rfl⟩

/-- Settles O11, from the equation of a moment with a command. -/
theorem stepRunsTheCommandAccepted : Obligations.StepRunsTheCommandAccepted :=
  fun _ _ _ _ => step_of_command

/-- Settles O12, from the equation of an idle moment. -/
theorem idleMomentHoldsEveryRegister : Obligations.IdleMomentHoldsEveryRegister :=
  fun _ => step_of_idle

/-- Settles O13: every other moment answers a next state, because every command does. -/
theorem onlyReservedOpcodesStopTheMachine : Obligations.OnlyReservedOpcodesStopTheMachine := by
  intro s r
  constructor
  · intro h
    obtain hidle | hreset | ⟨i, _, hrun⟩ | ⟨p, rest, hp, hr, hv, hop, hrefused⟩ := step_cases s
    · cases h.symm.trans hidle
    · cases h.symm.trans hreset
    · obtain ⟨t, ht⟩ := exec_completes i { s with portIn := s.portIn.tail }
      cases h.symm.trans (hrun.trans ht)
    · cases h.symm.trans hrefused
      exact ⟨p, rest, hp, hr, hv, hop, rfl⟩
  · rintro ⟨p, rest, hp, hr, hv, hop, rfl⟩
    exact step_of_reserved hp hr hv hop

end Sys2Proof.Proofs.Other

/-! SUPPORT. The encoder's round trip (spec/30_encoding.md rules R92, R93) and the serialized stream's
(spec/20_memory.md rule R67). -/

namespace Sys2Proof

open Machine

/-- The sample operand written into the argument field is read back (R93, R99). -/
theorem sampleOperand_sampleBits {x : Int} (h : SampleInRange x) :
    sampleOperand ((sampleBits x).setWidth 32) = x := by
  have hlow : ((sampleBits x).setWidth 32).extractLsb' 0 16 = sampleBits x := by
    apply BitVec.eq_of_toNat_eq
    rw [lowHalf_toNat, toNat_zeroExtended (by decide)]
    exact Nat.mod_eq_of_lt (sampleBits x).isLt
  rw [sampleOperand, hlow, sext16_sampleBits h]

/-- A value operand in range loses no bit in the argument field (R92). -/
theorem ofNat_value_toNat {v : Nat} (h : ValueInRange v) : (BitVec.ofNat 32 v).toNat = v :=
  (BitVec.toNat_ofNat ..).trans (Nat.mod_eq_of_lt h)

/-- A command comes back from its word, by the decoder's equation for its opcode (R94). -/
theorem decode_encode {i : Instr} (h : i.WellFormed) : decode (encode i) = .ok i := by
  have hvalue {v : Nat} (command : Nat → Instr) (hv : decide (ValueInRange v) = true) :
      Except.ok (ε := Rejection) (command (BitVec.ofNat 32 v).toNat) = .ok (command v) := by
    rw [ofNat_value_toNat (of_decide_eq_true hv)]
  cases i with
  | nop => exact decode_nop _
  | setatk v => exact (decode_setatk _).trans (hvalue .setatk h)
  | setrel v => exact (decode_setrel _).trans (hvalue .setrel h)
  | settone v => exact (decode_settone _).trans (hvalue .settone h)
  | setrate v => exact (decode_setrate _).trans (hvalue .setrate h)
  | sethi v => exact (decode_sethi _).trans (hvalue .sethi h)
  | setlo v => exact (decode_setlo _).trans (hvalue .setlo h)
  | setvol v => exact (decode_setvol _).trans (hvalue .setvol h)
  | init => exact decode_init _
  | step x => exact (decode_step _).trans (by rw [Instr.argument, sampleOperand_sampleBits (of_decide_eq_true h)])

/-- The table's bit numbering is that of the command port: a word is its own number (R90). -/
theorem decodeTableWord_toNat {w : CmdWord} {i : Instr} (h : decode w = .ok i) :
    decodeTableWord 40 w.toNat = some i := by
  have hword : w.toNat % 2 ^ 40 = w.toNat := Nat.mod_eq_of_lt (w.isLt.trans (by decide))
  rw [decodeTableWord, hword, if_pos w.isLt, BitVec.ofNat_toNat, BitVec.setWidth_eq, h]

/-- `isStep` picks out the `STEP`s. -/
theorem Instr.isStep_iff {i : Instr} : i.isStep = true ↔ ∃ x, i = .step x := by
  cases i <;> simp [Instr.isStep]

/-- Fewer than two bytes hold no sample (R67). -/
theorem Machine.samplesOfBytes_of_length_le_one {tail : List Byte} (h : tail.length ≤ 1) :
    samplesOfBytes tail = [] := by
  match tail, h with
  | [], _ => rfl
  | [_], _ => rfl

/-- The framer reads back the samples written, and nothing from a partial trailing byte (R66, R67). -/
theorem Machine.samplesOfBytes_bytesOfSamples_append {vs : List Int} {tail : List Byte}
    (hvs : ∀ v ∈ vs, SampleInRange v) (htail : tail.length ≤ 1) :
    samplesOfBytes (bytesOfSamples vs ++ tail) = vs := by
  induction vs with
  | nil => exact samplesOfBytes_of_length_le_one htail
  | cons v rest ih =>
    obtain ⟨hv, hrest⟩ := List.forall_mem_cons.1 hvs
    rw [bytesOfSamples, List.cons_append, List.cons_append, samplesOfBytes, frameIn_frameOut hv, ih hrest]

end Sys2Proof

/-! SUPPORT. Commands and runs of commands (spec/20_memory.md rules R64, R72, R75): what a command leaves of the ports
and the output stream, `INIT` and `STEP` where the registers have no value (spec/40_config_derive.md rule R129), and the
independence of a run from a staged configuration. -/

namespace Sys2Proof.Machine

/-! ### One command -/

/-- A command takes nothing from what the host drives (R62). -/
theorem exec_portIn {i : Instr} {s t : State} (h : exec i s = .next t) : t.portIn = s.portIn := by
  refine exec_cases (P := fun t => t.portIn = s.portIn) h
    (nop := ?_) (set := ?_) (legal := ?_) (illegal := ?_) (run := ?_) (free := ?_) <;> intros <;> rfl

/-- A `STEP` drives one sample and no other command does (R64). -/
theorem exec_output {i : Instr} {s t : State} (h : exec i s = .next t) :
    (t.outPort.isSome = true ↔ i.isStep = true) ∧ t.outStream = s.outStream ++ t.outPort.toList := by
  refine exec_cases (P := fun t => (t.outPort.isSome = true ↔ i.isStep = true) ∧
    t.outStream = s.outStream ++ t.outPort.toList) h
    (nop := ?nop) (set := ?set) (legal := ?legal) (illegal := ?illegal) (run := ?run) (free := ?free)
  case nop => rintro rfl; exact ⟨iff_of_false nofun nofun, (List.append_nil _).symm⟩
  case set => intro _ _ _ hi; exact ⟨by simp [hi], (List.append_nil _).symm⟩
  case legal => rintro rfl _; exact ⟨iff_of_false nofun nofun, (List.append_nil _).symm⟩
  case illegal => rintro rfl _; exact ⟨iff_of_false nofun nofun, (List.append_nil _).symm⟩
  case run => rintro x rfl _; exact ⟨iff_of_true rfl rfl, rfl⟩
  case free => rintro x rfl _; exact ⟨iff_of_true rfl rfl, rfl⟩

/-- The output stream grows by one sample for a `STEP`, and else stays (R64). -/
theorem exec_outStream_length {i : Instr} {s t : State} (h : exec i s = .next t) :
    t.outStream.length = s.outStream.length + ([i].filter Instr.isStep).length := by
  obtain ⟨hsome, hout⟩ := exec_output h
  rw [hout, List.length_append]
  cases hi : i.isStep with
  | true =>
    obtain ⟨b, hb⟩ := Option.isSome_iff_exists.1 (hsome.2 hi)
    rw [hb, List.filter_cons_of_pos hi]
    rfl
  | false =>
    have hnone : t.outPort = none := by simpa [hi] using hsome
    rw [hnone, List.filter_cons_of_neg (by simp [hi])]
    rfl

/-- The illegal branch of `INIT` (R129). -/
theorem exec_init_of_not_cfgLegal {s : State} (h : ¬ CfgLegal s.config) :
    exec .init s = .next (quiet (undefineRegisters s)) := if_neg h

/-- `STEP` where the registers have no value (R129). -/
theorem exec_step_of_undefined {s : State} (h : s.defined = false) (x : Int) :
    exec (.step x) s = .next (driveFreeSample (undefineRegisters s)) :=
  if_neg (by rw [h]; decide)

/-- Only an `INIT` under a legal configuration gives the registers a value again (R129, R279). -/
theorem exec_defined_iff_of_undefined {i : Instr} {s t : State} (hs : s.defined = false) (h : exec i s = .next t) :
    t.defined = true ↔ i = .init ∧ CfgLegal s.config := by
  have hstays : ¬ s.defined = true := by rw [hs]; decide
  refine exec_cases (P := fun t => t.defined = true ↔ i = .init ∧ CfgLegal s.config) h
    (nop := ?nop) (set := ?set) (legal := ?legal) (illegal := ?illegal) (run := ?run) (free := ?free)
  case nop => rintro rfl; exact iff_of_false hstays nofun
  case set => intro _ _ hinit _; exact iff_of_false hstays fun h => hinit h.1
  case legal => exact fun hinit hlegal => iff_of_true rfl ⟨hinit, hlegal⟩
  case illegal => exact fun _ hillegal => iff_of_false nofun fun h => hillegal h.2
  case run => exact fun _ _ hdef => absurd hdef hstays
  case free => rintro x rfl _; exact iff_of_false nofun nofun

/-! ### Runs -/

/-- Every sequence of commands completes; the output stream keeps what it holds and grows by one sample for each `STEP`
(R64, R281). -/
theorem runCommands_output (cs : List Instr) (s : State) :
    ∃ t, runCommands cs s = .next t ∧ s.outStream <+: t.outStream ∧
      t.outStream.length = s.outStream.length + (cs.filter Instr.isStep).length := by
  induction cs generalizing s with
  | nil => exact ⟨s, rfl, List.prefix_rfl, rfl⟩
  | cons i rest ih =>
    obtain ⟨u, hu⟩ := exec_completes i s
    obtain ⟨t, ht, hprefix, hlength⟩ := ih u
    have hfirst : s.outStream <+: u.outStream := ⟨_, (exec_output hu).2.symm⟩
    refine ⟨t, (runCommands_cons hu rest).trans ht, hfirst.trans hprefix, ?_⟩
    rw [hlength, exec_outStream_length hu, Nat.add_assoc, ← List.length_append, ← List.filter_append]
    rfl

/-- `s` and `u` have values in the registers, and agree in all that the `STEP`s to come read or extend. -/
structure SameStream (s u : State) : Prop where
  stream : s.stream = u.stream
  derived : s.derived = u.derived
  outStream : s.outStream = u.outStream
  left : s.defined = true
  right : u.defined = true

theorem SameStream.refl {s : State} (h : s.defined = true) : SameStream s s := ⟨rfl, rfl, rfl, h, h⟩

/-- A command other than `INIT` and `STEP` is not seen by the `STEP`s to come (R75). -/
theorem SameStream.of_exec {i : Instr} {s t u : State} (h : SameStream s u) (hinit : i ≠ .init)
    (hstep : i.isStep = false) (ht : exec i s = .next t) : SameStream t u := by
  obtain ⟨hstream, hderived, hout, hs, hu⟩ := h
  refine exec_cases (P := (SameStream · u)) ht
    (nop := ?nop) (set := ?set) (legal := ?legal) (illegal := ?illegal) (run := ?run) (free := ?free)
  case nop => exact fun _ => ⟨hstream, hderived, hout, hs, hu⟩
  case set => exact fun _ _ _ _ => ⟨hstream, hderived, hout, hs, hu⟩
  case legal => exact fun h => absurd h hinit
  case illegal => exact fun h => absurd h hinit
  case run => rintro x rfl; cases hstep
  case free => rintro x rfl; cases hstep

/-- A `STEP` does the same in both states (R223). -/
theorem SameStream.exec_step {s u : State} (h : SameStream s u) (x : Int) :
    ∃ t v, exec (.step x) s = .next t ∧ exec (.step x) u = .next v ∧ SameStream t v := by
  obtain ⟨hstream, hderived, hout, hs, hu⟩ := h
  refine ⟨_, _, exec_step_of_defined hs x, exec_step_of_defined hu x, ?_, hderived, ?_, hs, hu⟩ <;>
    simp [hstream, hderived, hout]

/-- A run without `INIT` does what the run of its `STEP`s does (R75). -/
theorem SameStream.runCommands_filter {cs : List Instr} {s u : State} (hcs : .init ∉ cs) (h : SameStream s u) :
    ∃ t v, runCommands cs s = .next t ∧ runCommands (cs.filter Instr.isStep) u = .next v ∧ SameStream t v := by
  induction cs generalizing s u with
  | nil => exact ⟨s, u, rfl, rfl, h⟩
  | cons i rest ih =>
    obtain ⟨hi, hrest⟩ := not_or.1 (mt List.mem_cons.2 hcs)
    cases hstep : i.isStep with
    | false =>
      obtain ⟨s', hs'⟩ := exec_completes i s
      obtain ⟨t, v, ht, hv, hsame⟩ := ih hrest (h.of_exec (Ne.symm hi) hstep hs')
      rw [List.filter_cons_of_neg (by simp [hstep])]
      exact ⟨t, v, (runCommands_cons hs' rest).trans ht, hv, hsame⟩
    | true =>
      obtain ⟨x, rfl⟩ : ∃ x, i = .step x := Instr.isStep_iff.1 hstep
      obtain ⟨s', u', hs', hu', hsame'⟩ := h.exec_step x
      obtain ⟨t, v, ht, hv, hsame⟩ := ih hrest hsame'
      rw [List.filter_cons_of_pos hstep]
      exact ⟨t, v, (runCommands_cons hs' rest).trans ht, (runCommands_cons hu' _).trans hv, hsame⟩

/-- `NOP`s are not seen by the `STEP`s to come (R221, R223). -/
theorem SameStream.runCommands_nops {s u : State} (h : SameStream s u) (n : Nat) :
    ∃ t, runCommands (List.replicate n .nop) s = .next t ∧ SameStream t u := by
  induction n generalizing s with
  | zero => exact ⟨s, rfl, h⟩
  | succ n ih => exact ih (s := quiet s) (h.of_exec (i := .nop) (by simp) rfl rfl)

end Sys2Proof.Machine

namespace Sys2Proof.Proofs.Other

open Sys2Proof Sys2Proof.Machine

/-- Settles O21: the decoder's equation of each opcode, on an operand that its field holds whole. -/
theorem decodeOfEncodeIsTheCommand : Obligations.DecodeOfEncodeIsTheCommand :=
  fun _ h => ⟨decode_encode h, decodeTableWord_toNat (decode_encode h)⟩

/-- Settles O16, by induction on the commands. -/
theorem outputStreamHasOneSampleForEachStep : Obligations.OutputStreamHasOneSampleForEachStep :=
  runCommands_output

/-- Settles O19: the run and the run of its `STEP`s keep agreeing in all that a `STEP` reads. -/
theorem stagedConfigurationIsNotSeenBeforeInit : Obligations.StagedConfigurationIsNotSeenBeforeInit := by
  intro cs s hcs hdef
  obtain ⟨t, u, ht, hu, hstream, hderived, hout, hdef', _⟩ := (SameStream.refl hdef).runCommands_filter hcs
  exact ⟨t, u, ht, hu, hstream, hderived, hout, hdef'⟩

/-- Settles O18, by induction on the samples. -/
theorem partialTrailingByteIsDiscarded : Obligations.PartialTrailingByteIsDiscarded :=
  fun _ _ => samplesOfBytes_bytesOfSamples_append

/-- Settles O30, from what each command leaves of the mark and from the reset event. -/
theorem undefinedFromAnIllegalInitUntilRepair : Obligations.UndefinedFromAnIllegalInitUntilRepair := by
  refine ⟨fun s hillegal => ⟨_, exec_init_of_not_cfgLegal hillegal, rfl, rfl, rfl, rfl⟩, fun i s hundef => ?_,
    fun s p rest hp hr => ⟨_, step_of_rst hp hr, rfl⟩⟩
  obtain ⟨t, ht⟩ := exec_completes i s
  exact ⟨t, ht, exec_defined_iff_of_undefined hundef ht⟩

/-- Settles O59: the `NOP`s keep the two states in agreement, and then both `STEP`s do the same. -/
theorem stepDependsOnStreamAndDerivedRegistersAlone : Obligations.StepDependsOnStreamAndDerivedRegistersAlone := by
  intro x n s u hs hu hderived hstream
  obtain ⟨w, hw, hwstream, hwderived, _, hwdef, _⟩ := (SameStream.refl hs).runCommands_nops n
  refine ⟨_, _, (runCommands_append _ _ _ _ hw).trans (runCommands_cons (exec_step_of_defined hwdef x) []),
    exec_step_of_defined hu x, ?_, ?_, ?_⟩ <;> simp [hwstream, hwderived, hstream, hderived]

/-- Settles O10: the seven `SET*` stage the reset configuration, which is legal, and `INIT` derives the reset values
from it. -/
theorem defaultConfigurationRestoresTheResetRegisters :
    Obligations.DefaultConfigurationRestoresTheResetRegisters := by
  intro s
  have hinit := exec_init_of_cfgLegal (s := setConfig State.reset.config s) cfgLegal_reset
  exact ⟨_, runCommands_cons hinit [], ⟨rfl, derive_reset, rfl⟩, rfl, rfl⟩

/-- Settles O14, from what `exec` answers for each command. -/
theorem everyCommandCompletes : Obligations.EveryCommandCompletes := by
  intro i s
  obtain ⟨t, ht⟩ := exec_completes i s
  exact ⟨t, ht, exec_portIn ht⟩

/-- Settles O15, from what each command drives. -/
theorem onlyStepGivesASample : Obligations.OnlyStepGivesASample := by
  intro i s
  obtain ⟨t, ht⟩ := exec_completes i s
  exact ⟨t, ht, exec_output ht⟩

/-- Settles O24: each word is an opcode over an argument, and the decoder has an equation for each opcode. -/
theorem sampleWordsDecode : Obligations.SampleWordsDecode :=
  ⟨decode_nop 0, decode_setatk 10, decode_setrel 0, decode_settone 1000, decode_setrate 48000, decode_sethi 150,
    decode_setlo 10, decode_setvol 100, decode_init 0, decode_step 0xFFFF, decode_reserved (by decide)⟩

/-- Settles O25: the expansions are those of the definitions; the operands of a line are integers, and a count or a
value is one that is not negative. -/
theorem pseudoInstructionsExpand : Obligations.PseudoInstructionsExpand := by
  refine ⟨fun _ _ _ _ _ _ _ => rfl, fun _ => rfl, fun _ _ => rfl, rfl, fun a r t f h l v => ?_, fun _ _ => rfl,
    fun n x => ?_, ?_⟩
  · simp [itemsOf]
  · simp [itemsOf]
  · rintro _ rfl
    rfl

/-- Settles O26: each `SET*` is one record update, and 32 bits hold a value in range. -/
theorem setCommandsStageOneRegister : Obligations.SetCommandsStageOneRegister :=
  fun _ _ h => ⟨rfl, rfl, rfl, rfl, rfl, rfl, rfl, ofNat_value_toNat h⟩

/-- Settles O28: the first `INIT` keeps the configuration, and the registers it leaves are a function of it. -/
theorem initTwiceIsInitOnce : Obligations.InitTwiceIsInitOnce := by
  intro s hlegal
  refine ⟨_, exec_init_of_cfgLegal hlegal, exec_init_of_cfgLegal (s := quiet (startStream s)) hlegal, ?_⟩
  intro u hu
  exact ⟨_, exec_init_of_cfgLegal (hu ▸ hlegal), hu, congrArg derive hu, rfl⟩

/-- Settles O31: the free values are those of the next draws, which the count of draws alone decides. -/
theorem resultsWithoutAValueDependOnNothing : Obligations.ResultsWithoutAValueDependOnNothing := by
  intro x y s u hs hu hdraws
  refine ⟨_, _, exec_step_of_undefined hs x, exec_step_of_undefined hu y, ?_, ?_, ?_, rfl, rfl⟩ <;>
    simp [freeDerived, freeStream, freeAt, hdraws]

end Sys2Proof.Proofs.Other

/-! SUPPORT. Streams of samples (spec/44_step.md rule R220): the rows of `ASR.TRN` in a `STEP`
(spec/42_asr_state_machine.md rules R172 to R175), the stream registers after a `STEP` for each sample, and what
follows for the lifecycle (R179, R180), the peak (R154), the phase (R204) and the output sample (R225). -/

namespace Sys2Proof.Machine

/-! ### The rows in a `STEP` -/

/-- The upper predicate (R38). -/
theorem aboveHi_eq_true_iff {rateHigh : Amp} {peak : Word} :
    aboveHi rateHigh peak = true ↔ rateHigh.toNat * 2 ^ 16 < peak.toNat := decide_eq_true_iff

/-- The lower predicate (R38). -/
theorem belowLo_eq_true_iff {rateLow : Amp} {peak : Word} :
    belowLo rateLow peak = true ↔ peak.toNat < rateLow.toNat * 2 ^ 16 := decide_eq_true_iff

/-- The count of the ramp that a lifecycle state is (R173, R175); OFF and SUSTAIN are none. -/
def rampCount (d : DerivedRegs) : Lifecycle → Word
  | .attack => d.attackSamples
  | _ => d.releaseSamples

section Rows

variable {d : DerivedRegs} {r : StreamRegs} {x : Int}

/-- `OSC.ADV` keeps STATE and COUNTER as `ASR.TRN` leaves them (R199). -/
theorem stepStream_of_afterTransition {q : StreamRegs} (h : afterTransition d x r = q) :
    (stepStream d x r).state = q.state ∧ (stepStream d x r).counter = q.counter := by
  subst h
  exact (oscAdv_frame d _).2

/-- The OFF row above the upper threshold (R172). -/
theorem afterTransition_of_trigger (h : r.state = .off)
    (hpeak : d.rateHigh.toNat * 2 ^ 16 < (detUpd x r.peak).toNat) :
    afterTransition d x r = { peak := detUpd x r.peak, state := .attack, counter := 0, phase := 0 } :=
  (asrTrn_of_off d (r := { r with peak := detUpd x r.peak }) h).trans (if_pos (aboveHi_eq_true_iff.2 hpeak))

/-- The OFF row up to the upper threshold (R172). -/
theorem afterTransition_of_off (h : r.state = .off)
    (hpeak : (detUpd x r.peak).toNat ≤ d.rateHigh.toNat * 2 ^ 16) :
    afterTransition d x r = { r with peak := detUpd x r.peak } :=
  (asrTrn_of_off d (r := { r with peak := detUpd x r.peak }) h).trans
    (if_neg (mt aboveHi_eq_true_iff.1 (Nat.not_lt.2 hpeak)))

/-- The SUSTAIN row below the lower threshold (R174). -/
theorem afterTransition_of_below (h : r.state = .sustain)
    (hpeak : (detUpd x r.peak).toNat < d.rateLow.toNat * 2 ^ 16) :
    afterTransition d x r = { r with peak := detUpd x r.peak, state := .release, counter := 0 } :=
  (asrTrn_of_sustain d (r := { r with peak := detUpd x r.peak }) h).trans (if_pos (belowLo_eq_true_iff.2 hpeak))

/-- The SUSTAIN row from the lower threshold on (R174). -/
theorem afterTransition_of_sustain (h : r.state = .sustain)
    (hpeak : d.rateLow.toNat * 2 ^ 16 ≤ (detUpd x r.peak).toNat) :
    afterTransition d x r = { r with peak := detUpd x r.peak } :=
  (asrTrn_of_sustain d (r := { r with peak := detUpd x r.peak }) h).trans
    (if_neg (mt belowLo_eq_true_iff.1 (Nat.not_lt.2 hpeak)))

/-- The two rows that count a ramp: increment, then compare with the ramp's length (R173, R175). -/
theorem afterTransition_of_ramp (h : r.state = .attack ∨ r.state = .release) :
    afterTransition d x r =
      { r with
        peak := detUpd x r.peak
        counter := BitVec.ofNat 32 (r.counter.toNat + 1)
        state := if r.counter.toNat + 1 = rampLength (rampCount d r.state) then r.state.successor else r.state } := by
  obtain h | h := h
  · rw [h]
    exact asrTrn_of_attack d (r := { r with peak := detUpd x r.peak }) h
  · rw [h]
    exact asrTrn_of_release d (r := { r with peak := detUpd x r.peak }) h

/-- A `STEP` in a ramp, with the counter below the ramp's length (R173, R175, R176). -/
theorem stepStream_of_ramp (h : r.state = .attack ∨ r.state = .release)
    (hlt : r.counter.toNat < rampLength (rampCount d r.state)) :
    (stepStream d x r).counter.toNat = r.counter.toNat + 1 ∧
      (stepStream d x r).state =
        if r.counter.toNat + 1 = rampLength (rampCount d r.state) then r.state.successor else r.state := by
  obtain ⟨hstate, hcounter⟩ := stepStream_of_afterTransition (afterTransition_of_ramp (d := d) (x := x) h)
  exact ⟨(congrArg BitVec.toNat hcounter).trans (ofNat_counter_succ_toNat hlt), hstate⟩

/-- The `STEP` that triggers: `OSC.ADV` advances the cleared phase once (R172, R199). -/
theorem stepStream_phase_of_trigger (h : r.state = .off) (hangle : d.angleStep.toNat < Config.twoPiFx)
    (hpeak : d.rateHigh.toNat * 2 ^ 16 < (detUpd x r.peak).toNat) :
    (stepStream d x r).phase = d.angleStep := by
  have hadvance : advancePhase 0 d.angleStep.toNat = d.angleStep.toNat := by
    rw [advancePhase, Nat.zero_add, if_neg (Nat.not_lt.2 hangle.le)]
  rw [stepStream, afterTransition_of_trigger h hpeak, oscAdv, if_neg nofun]
  simp [hadvance]

/-- A ramp begins at COUNTER 0, whichever row enters it (R172, R174). -/
theorem stepStream_counter_of_entry (h : r.state = .off ∨ r.state = .sustain)
    (hentry : (stepStream d x r).state ≠ r.state) : (stepStream d x r).counter = 0 := by
  obtain h | h := h
  · rcases Nat.lt_or_ge (d.rateHigh.toNat * 2 ^ 16) (detUpd x r.peak).toNat with hpeak | hpeak
    · exact (stepStream_of_afterTransition (afterTransition_of_trigger h hpeak)).2
    · exact absurd (stepStream_of_afterTransition (afterTransition_of_off h hpeak)).1 hentry
  · rcases Nat.lt_or_ge (detUpd x r.peak).toNat (d.rateLow.toNat * 2 ^ 16) with hpeak | hpeak
    · exact (stepStream_of_afterTransition (afterTransition_of_below h hpeak)).2
    · exact absurd (stepStream_of_afterTransition (afterTransition_of_sustain h hpeak)).1 hentry

/-- Between the thresholds neither OFF nor SUSTAIN is left (R179). -/
theorem stepStream_state_of_deadZone (h : r.state = .off ∨ r.state = .sustain)
    (hlow : d.rateLow.toNat * 2 ^ 16 ≤ (stepStream d x r).peak.toNat)
    (hhigh : (stepStream d x r).peak.toNat ≤ d.rateHigh.toNat * 2 ^ 16) :
    (stepStream d x r).state = r.state := by
  rw [stepStream_peak] at hlow hhigh
  obtain h | h := h
  · exact (stepStream_of_afterTransition (afterTransition_of_off h hhigh)).1
  · exact (stepStream_of_afterTransition (afterTransition_of_sustain h hlow)).1

/-- A `STEP` that neither starts nor ends in OFF moves the phase by ANGLE_STEP, less a turn where the sum exceeds one
(R199, R200). -/
theorem stepStream_phase_of_tone (hphase : r.phase.toNat ≤ Config.twoPiFx)
    (hangle : d.angleStep.toNat < Config.twoPiFx) (hbefore : r.state ≠ .off)
    (hafter : (stepStream d x r).state ≠ .off) :
    ∃ turns, (stepStream d x r).phase.toNat + turns * Config.twoPiFx = r.phase.toNat + d.angleStep.toNat := by
  rw [stepStream_phase_of_ne_off hphase hangle hafter, carrierPhase, if_neg hbefore, advancePhase]
  split
  · exact ⟨1, by omega⟩
  · exact ⟨0, by omega⟩

/-! ### Samples that are 0 (R225) -/

/-- A `STEP` that ends in OFF gives 0 (R190, R225 b). -/
theorem stepOutput_of_ends_off (h : (stepStream d x r).state = .off) : stepOutput d x r = 0 := by
  rw [stepOutput_eq_genSyn]
  exact genSyn_of_off d h

/-- At envelope 0 the sample is 0 (R198). -/
theorem genSyn_of_envelope_zero (h : envelope d r = 0) : genSyn d r = 0 := by
  rw [genSyn, h, multiplier_envelope_zero, ite_self]

/-- At volume 0 every sample is 0 (R198, R225 e). -/
theorem genSyn_of_volume_zero (h : d.outVolume = 0) : genSyn d r = 0 := by
  have hproduct (s : Int) (e : Nat) : multiplier s e 0 = 0 := multiplier_eq_zero_iff.2 (by simp)
  rw [genSyn, h]
  exact (ite_congr rfl (fun _ => rfl) fun _ => hproduct _ _).trans (ite_self _)

/-- A `STEP` from OFF gives 0: it stays in OFF, or it enters ATTACK, whose envelope starts at 0 (R182, R225 a). -/
theorem stepOutput_of_off (h : r.state = .off) : stepOutput d x r = 0 := by
  rcases Nat.lt_or_ge (d.rateHigh.toNat * 2 ^ 16) (detUpd x r.peak).toNat with hpeak | hpeak
  · rw [stepOutput, afterTransition_of_trigger h hpeak]
    exact genSyn_of_envelope_zero (envq_zero _)
  · rw [stepOutput, afterTransition_of_off h hpeak]
    exact genSyn_of_off d h

/-- A `STEP` that enters a release of one sample gives 0: the one envelope value is the last (R176, R225 d). -/
theorem stepOutput_of_release_of_one (h : r.state = .sustain) (hentry : (stepStream d x r).state = .release)
    (hcount : d.releaseSamples.toNat ≤ 1) : stepOutput d x r = 0 := by
  have hcounter := stepStream_counter_of_entry (.inr h) (x := x) (d := d) (by rw [hentry, h]; decide)
  have hlength : rampLength d.releaseSamples = 1 := max_eq_right hcount
  rw [stepOutput_eq_genSyn]
  refine genSyn_of_envelope_zero ((envelope_of_release d hentry).trans ?_)
  rw [hcounter, hlength]
  exact envq_zero 1

end Rows

/-! ### Streams -/

/-- The stream registers after a `STEP` for each sample (R72, R220). -/
def streamAfter (d : DerivedRegs) (r : StreamRegs) (xs : List Int) : StreamRegs :=
  xs.foldl (fun r x => stepStream d x r) r

section Streams

variable {d : DerivedRegs} {r : StreamRegs}

/-- One more sample is one more `STEP`. -/
@[simp] theorem streamAfter_concat (xs : List Int) (x : Int) :
    streamAfter d r (xs ++ [x]) = stepStream d x (streamAfter d r xs) := List.foldl_concat ..

/-- `feed` on a state with values runs the stream through the registers (R101, R220). -/
theorem runCommands_feed (xs : List Int) {s : State} (hdef : s.defined = true) :
    ∃ t, runCommands (feedCommands xs) s = .next t ∧ t.stream = streamAfter s.derived s.stream xs ∧
      t.derived = s.derived := by
  induction xs generalizing s with
  | nil => exact ⟨s, rfl, rfl, rfl⟩
  | cons x rest ih =>
    obtain ⟨t, ht, hstream, hderived⟩ :=
      ih (s := sampleOut (stepOutput s.derived x s.stream) { s with stream := stepStream s.derived x s.stream }) hdef
    exact ⟨t, (runCommands_cons (exec_step_of_defined hdef x) _).trans ht, hstream, hderived⟩

/-- What a completed `feed` leaves in the stream registers. -/
theorem stream_of_feed {xs : List Int} {s t : State} (hdef : s.defined = true)
    (h : runCommands (feedCommands xs) s = .next t) : t.stream = streamAfter s.derived s.stream xs := by
  obtain ⟨u, hu, hstream, _⟩ := runCommands_feed xs hdef
  cases h.symm.trans hu
  exact hstream

/-- PEAK after a stream is that of `DET.UPD` alone, whatever the derived registers and the other stream registers
(R154). -/
theorem streamAfter_peak (xs : List Int) :
    (streamAfter d r xs).peak = xs.foldl (fun peak x => detUpd x peak) r.peak := by
  induction xs using List.reverseRecOn with
  | nil => rfl
  | append_singleton xs x ih => rw [streamAfter_concat, stepStream_peak, ih, List.foldl_concat]

/-- Silence decays PEAK once a sample (R153). -/
theorem streamAfter_silence_peak (n : Nat) :
    (streamAfter d r (List.replicate n 0)).peak.toNat = decay^[n] r.peak.toNat := by
  have hsilent (peak : Word) : (detUpd 0 peak).toNat = decay peak.toNat := detUpd_toNat (by decide) peak
  induction n with
  | zero => rfl
  | succ n ih =>
    rw [List.replicate_succ', streamAfter_concat, stepStream_peak, hsilent, ih, Function.iterate_succ_apply']

/-- Between the thresholds OFF and SUSTAIN are kept, however long the stream (R179). -/
theorem streamAfter_state_of_deadZone {xs : List Int} (h : r.state = .off ∨ r.state = .sustain)
    (hpeak : ∀ ys, ys <+: xs → ys ≠ [] →
      d.rateLow.toNat * 2 ^ 16 ≤ (streamAfter d r ys).peak.toNat ∧
      (streamAfter d r ys).peak.toNat ≤ d.rateHigh.toNat * 2 ^ 16) :
    (streamAfter d r xs).state = r.state := by
  induction xs using List.reverseRecOn with
  | nil => rfl
  | append_singleton xs x ih =>
    have hbefore := ih fun ys hys => hpeak ys (hys.trans (List.prefix_append xs [x]))
    obtain ⟨hlow, hhigh⟩ := hpeak (xs ++ [x]) List.prefix_rfl (by simp)
    rw [streamAfter_concat] at hlow hhigh ⊢
    exact (stepStream_state_of_deadZone (by rwa [hbefore]) hlow hhigh).trans hbefore

/-- From its entry a ramp counts the samples, whatever they are, and is left at its length (R180). -/
theorem streamAfter_of_ramp (h : r.state = .attack ∨ r.state = .release) (hentry : r.counter = 0) {xs : List Int}
    (hlength : xs.length ≤ rampLength (rampCount d r.state)) :
    (streamAfter d r xs).counter.toNat = xs.length ∧
      (streamAfter d r xs).state =
        if xs.length = rampLength (rampCount d r.state) then r.state.successor else r.state := by
  induction xs using List.reverseRecOn with
  | nil =>
    rw [List.length_nil, if_neg (rampLength_pos _).ne]
    exact ⟨congrArg BitVec.toNat hentry, rfl⟩
  | append_singleton xs x ih =>
    rw [List.length_append, List.length_singleton] at hlength ⊢
    obtain ⟨hcounter, hstate⟩ := ih (Nat.le_of_succ_le hlength)
    rw [if_neg (Nat.ne_of_lt hlength)] at hstate
    have hstep := stepStream_of_ramp (d := d) (x := x) (hstate ▸ h) (by rwa [hstate, hcounter])
    rwa [hstate, hcounter, ← streamAfter_concat] at hstep

/-- A stream keeps PHASE in its closed range (R200). -/
theorem streamAfter_phase_le (hphase : r.phase.toNat ≤ Config.twoPiFx) (hangle : d.angleStep.toNat < Config.twoPiFx)
    (xs : List Int) : (streamAfter d r xs).phase.toNat ≤ Config.twoPiFx := by
  induction xs using List.reverseRecOn with
  | nil => exact hphase
  | append_singleton xs x ih =>
    rw [streamAfter_concat]
    exact stepStream_phase_le ih hangle

/-- Through a tone the phase moves by ANGLE_STEP a sample, less whole turns (R204). -/
theorem streamAfter_phase_of_tone (hphase : r.phase.toNat ≤ Config.twoPiFx)
    (hangle : d.angleStep.toNat < Config.twoPiFx) {xs : List Int}
    (htone : ∀ ys, ys <+: xs → (streamAfter d r ys).state ≠ .off) :
    ∃ turns, (streamAfter d r xs).phase.toNat + turns * Config.twoPiFx =
      r.phase.toNat + xs.length * d.angleStep.toNat := by
  induction xs using List.reverseRecOn with
  | nil => exact ⟨0, by simp [streamAfter]⟩
  | append_singleton xs x ih =>
    have hprefix : xs <+: xs ++ [x] := List.prefix_append xs [x]
    obtain ⟨before, hbefore⟩ := ih fun ys hys => htone ys (hys.trans hprefix)
    have hends := htone _ List.prefix_rfl
    rw [streamAfter_concat] at hends ⊢
    obtain ⟨last, hlast⟩ := stepStream_phase_of_tone (streamAfter_phase_le hphase hangle xs) hangle
      (htone xs hprefix) hends
    refine ⟨before + last, ?_⟩
    rw [List.length_append, List.length_singleton]
    linarith

end Streams

/-- After the `STEP` that enters a ramp, further samples are counted until the ramp's length is reached (R176, R180). -/
theorem feed_of_ramp_entry {ramp : Lifecycle} (hramp : ramp = .attack ∨ ramp = .release) {x : Int} {s u : State}
    {xs : List Int} (hdef : s.defined = true) (hbefore : s.stream.state = .off ∨ s.stream.state = .sustain)
    (hu : exec (.step x) s = .next u) (hentry : u.stream.state = ramp)
    (hlength : xs.length ≤ rampLength (rampCount s.derived ramp)) :
    ∃ t, runCommands (feedCommands xs) u = .next t ∧ t.stream.counter.toNat = xs.length ∧
      (xs.length < rampLength (rampCount s.derived ramp) → t.stream.state = ramp) ∧
      (xs.length = rampLength (rampCount s.derived ramp) → t.stream.state = ramp.successor) := by
  subst hentry
  obtain ⟨hstream, hderived, hdef'⟩ :
      u.stream = stepStream s.derived x s.stream ∧ u.derived = s.derived ∧ u.defined = true := by
    cases hu.symm.trans (exec_step_of_defined hdef x)
    exact ⟨rfl, rfl, hdef⟩
  have hmoved : u.stream.state ≠ s.stream.state := by
    obtain h | h := hramp <;> obtain h' | h' := hbefore <;> rw [h, h'] <;> decide
  have hzero : u.stream.counter = 0 := by
    rw [hstream] at hmoved ⊢
    exact stepStream_counter_of_entry hbefore hmoved
  obtain ⟨t, ht, htstream, _⟩ := runCommands_feed xs hdef'
  obtain ⟨hcounter, hstate⟩ := streamAfter_of_ramp (d := s.derived) (r := u.stream) hramp hzero hlength
  rw [← hderived, ← htstream] at hcounter hstate
  rw [← hderived]
  exact ⟨t, ht, hcounter, fun hmore => hstate.trans (if_neg hmore.ne), fun hlast => hstate.trans (if_pos hlast)⟩

end Sys2Proof.Machine

namespace Sys2Proof.Proofs.Other

open Sys2Proof Sys2Proof.Machine

/-- Settles O43, from the same on the stream registers, which `feed` runs the samples through. -/
theorem deadZoneKeepsTheState : Obligations.DeadZoneKeepsTheState := by
  intro xs s t hdef hstate hpeak ht
  rw [stream_of_feed hdef ht]
  refine streamAfter_state_of_deadZone hstate fun ys hys hne => ?_
  obtain ⟨u, hu, hstream, _⟩ := runCommands_feed ys hdef
  rw [← hstream]
  exact hpeak ys u hys hne hu

/-- Settles O44: the ramp is ATTACK, entered from OFF. -/
theorem attackLastsItsCountOfSamples : Obligations.AttackLastsItsCountOfSamples :=
  fun _ _ _ _ hdef hoff => feed_of_ramp_entry (.inl rfl) hdef (.inl hoff)

/-- Settles O45: the ramp is RELEASE, entered from SUSTAIN. -/
theorem releaseLastsItsCountOfSamples : Obligations.ReleaseLastsItsCountOfSamples :=
  fun _ _ _ _ hdef hsustain => feed_of_ramp_entry (.inr rfl) hdef (.inr hsustain)

/-- Settles O54, from the same on the stream registers, which `feed` runs the samples through. -/
theorem phaseRunsOnThroughTheTone : Obligations.PhaseRunsOnThroughTheTone := by
  intro xs s t hdef hphase hangle _ htone ht
  rw [stream_of_feed hdef ht]
  refine streamAfter_phase_of_tone hphase hangle fun ys hys => ?_
  obtain ⟨u, hu, hstream, _⟩ := runCommands_feed ys hdef
  rw [← hstream]
  exact htone ys u hys hu

/-- Settles O32: `INIT` leaves OFF, and a `STEP` from OFF gives 0. -/
theorem initCutsTheTone : Obligations.InitCutsTheTone := by
  intro s x hlegal _
  refine ⟨_, _, exec_init_of_cfgLegal hlegal, rfl, exec_step_of_defined rfl x, ?_⟩
  rw [sampleOut_outPort, stepOutput_of_off rfl]
  rfl

/-- Settles O35: each silent sample is one decay, and 372 decays bring every peak in range to 0. -/
theorem silenceDrainsThePeak : Obligations.SilenceDrainsThePeak := by
  intro s hinv hdef
  obtain ⟨t, ht, hstream, hderived⟩ := runCommands_feed (List.replicate 372 0) hdef
  rw [feedCommands, List.map_replicate] at ht
  refine ⟨t, ht, ?_, hderived⟩
  apply BitVec.eq_of_toNat_eq
  rw [hstream, streamAfter_silence_peak, decay_iterate_372_eq_zero (hinv.peak hdef)]
  rfl

/-- Settles O36: both peaks are the same fold of `DET.UPD`. -/
theorem peakDoesNotDependOnConfiguration : Obligations.PeakDoesNotDependOnConfiguration := by
  intro xs s u hs hu hpeak
  obtain ⟨t, ht, htstream, _⟩ := runCommands_feed xs hs
  obtain ⟨v, hv, hvstream, _⟩ := runCommands_feed xs hu
  exact ⟨t, v, ht, hv, by rw [htstream, hvstream, streamAfter_peak, streamAfter_peak, hpeak]⟩

/-- Settles O38, from the two cases of the OFF row. -/
theorem offRowTriggersAboveTheUpperThreshold : Obligations.OffRowTriggersAboveTheUpperThreshold := by
  intro x s hdef hangle hoff
  refine ⟨_, exec_step_of_defined hdef x, fun hpeak => ?_, fun hpeak => ?_⟩ <;>
    rw [sampleOut_stream, stepStream_peak] at hpeak
  · obtain ⟨hstate, hcounter⟩ := stepStream_of_afterTransition (afterTransition_of_trigger hoff hpeak)
    exact ⟨hstate, hcounter, stepStream_phase_of_trigger hoff hangle hpeak⟩
  · obtain ⟨hstate, hcounter⟩ := stepStream_of_afterTransition (afterTransition_of_off hoff hpeak)
    exact ⟨hstate.trans hoff, hcounter, stepStream_phase_of_off (hstate.trans hoff)⟩

/-- Settles O40, from the two cases of the SUSTAIN row. -/
theorem sustainRowReleasesBelowTheLowerThreshold : Obligations.SustainRowReleasesBelowTheLowerThreshold := by
  intro x s hdef hsustain
  refine ⟨_, exec_step_of_defined hdef x, fun hpeak => ?_, fun hpeak => ?_⟩ <;>
    rw [sampleOut_stream, stepStream_peak] at hpeak
  · exact stepStream_of_afterTransition (afterTransition_of_below hsustain hpeak)
  · obtain ⟨hstate, hcounter⟩ := stepStream_of_afterTransition (afterTransition_of_sustain hsustain hpeak)
    exact ⟨hstate.trans hsustain, hcounter⟩

/-- Settles O41, from the RELEASE row; `OSC.ADV` keeps PHASE in OFF. -/
theorem releaseRowCountsToOff : Obligations.ReleaseRowCountsToOff := by
  intro x s hdef hbound hrelease
  have hrow := stepStream_of_ramp (d := s.derived) (r := s.stream) (x := x) (.inr hrelease)
  rw [hrelease] at hrow
  obtain ⟨hcounter, hstate⟩ := hrow (hbound.2 hrelease)
  refine ⟨_, exec_step_of_defined hdef x, hcounter, fun hlast => ?_, fun hmore => hstate.trans (if_neg hmore)⟩
  have hoff := hstate.trans (if_pos hlast)
  exact ⟨hoff, stepStream_phase_of_off hoff⟩

/-- Settles O60, one case of R225 after another. -/
theorem boundarySamplesAreZero : Obligations.BoundarySamplesAreZero := by
  intro x s hdef
  refine ⟨_, exec_step_of_defined hdef x, fun hcase => ?_⟩
  have hzero : stepOutput s.derived x s.stream = 0 := by
    obtain hoff | hends | hvolume | ⟨hsustain, hentry, hcount⟩ := hcase
    · exact stepOutput_of_off hoff
    · exact stepOutput_of_ends_off hends
    · exact genSyn_of_volume_zero hvolume
    · exact stepOutput_of_release_of_one hsustain hentry hcount
  rw [sampleOut_outPort, hzero]
  rfl

end Sys2Proof.Proofs.Other

/-! SUPPORT. How close the sine and the envelope units are to the real sine (spec/43_oscillator_synthesis.md rules R193,
R195; assumption logs 3 and 4): what rounding makes of a value close to the real one, how far the power series is off up
to a turn, how far the fraction taken for π is off π, and that the series rises over the first quarter of the turn. -/

namespace Sys2Proof.Machine

/-! ### Rounding a close value -/

/-- `q` is a real number's nearest integer, up to `margin` about the half-integers: within 1/2 and the margin of it, and
within 1/2 where no half-integer lies within the margin. -/
def RoundsUpTo (margin : ℝ) (q : ℤ) (z : ℝ) : Prop :=
  |(q : ℝ) - z| < 1 / 2 + margin ∧
    ((∀ m : ℤ, margin < |z - ((m : ℝ) + 1 / 2)|) → |(q : ℝ) - z| < 1 / 2)

/-- The nearest integer of a number that is closer than the margin. -/
theorem roundsUpTo_of_close {q : ℤ} {y z margin : ℝ} (hle : (q : ℝ) ≤ y + 1 / 2) (hlt : y + 1 / 2 < q + 1)
    (hclose : |z - y| < margin) : RoundsUpTo margin q z := by
  obtain ⟨hlower, hupper⟩ := abs_lt.1 hclose
  refine ⟨abs_lt.2 ⟨by linarith, by linarith⟩, fun hfar => ?_⟩
  have habove := hfar q
  have hbelow := hfar (q - 1)
  push_cast at hbelow
  rw [lt_abs] at habove hbelow
  rw [abs_lt]
  constructor
  · obtain h | h := habove <;> linarith
  · obtain h | h := hbelow <;> linarith

/-- A number that is not negative has no negative nearest integer. -/
theorem RoundsUpTo.nonneg {margin z : ℝ} {q : ℤ} (h : RoundsUpTo margin q z) (hmargin : margin < 1 / 2)
    (hz : 0 ≤ z) : 0 ≤ q := by
  have hlower := (abs_lt.1 h.1).1
  have hnext : (0 : ℝ) < q + 1 := by linarith
  exact Int.le_of_lt_add_one (by exact_mod_cast hnext)

/-- The rounded series is the nearest integer of the scaled sine, where the series is closer than 2^-116. -/
theorem sineRounded_roundsUpTo {a b : Nat} (hb : 0 < b) {z : ℝ}
    (h : |z - sineSeries ((a : ℝ) / b) (sineTerms + 1)| ≤ 1 / 2 ^ 116) :
    RoundsUpTo (1 / 2 ^ 100) (sineRounded a b) (32768 * z) := by
  obtain ⟨hle, hlt⟩ := sineRounded_bounds a b hb
  rw [sineNum_div_sineDen a b hb, ← sineSeries] at hle hlt
  refine roundsUpTo_of_close hle hlt ?_
  rw [← mul_sub, abs_mul]
  calc |(32768 : ℝ)| * |z - sineSeries ((a : ℝ) / b) (sineTerms + 1)|
      ≤ |(32768 : ℝ)| * (1 / 2 ^ 116) := by gcongr
    _ < 1 / 2 ^ 100 := by norm_num

/-! ### The series up to a turn -/

/-- The 31 terms kept are off the sine by at most twice the 62nd power of the exponential series. -/
theorem abs_sin_sub_sineSeries_le_of_le {x bound : ℝ} (hx : |x| ≤ bound) (hbound : bound ≤ 7) :
    |Real.sin x - sineSeries x (sineTerms + 1)| ≤ bound ^ 62 / (Nat.factorial 62 : ℝ) * 2 := by
  have hsmall : |x| / (2 * ((sineTerms + 1 : Nat) : ℝ) + 1) ≤ 1 / 2 := by
    unfold sineTerms
    norm_num
    linarith
  refine (abs_sin_sub_sineSeries_le hsmall).trans ?_
  rw [show 2 * (sineTerms + 1) = 62 from rfl]
  gcongr

/-- Up to a turn the series is off the sine by at most 2^-118. -/
theorem abs_sin_sub_sineSeries_le_turn {x : ℝ} (hx : |x| ≤ 63 / 10) :
    |Real.sin x - sineSeries x (sineTerms + 1)| ≤ 1 / 2 ^ 118 :=
  (abs_sin_sub_sineSeries_le_of_le hx (by norm_num)).trans (by norm_num [Nat.factorial])

/-- A little beyond half a turn the series is off the sine by at most 2^-170. -/
theorem abs_sin_sub_sineSeries_le_half {x : ℝ} (hx : |x| ≤ 16 / 5) :
    |Real.sin x - sineSeries x (sineTerms + 1)| ≤ 1 / 2 ^ 170 :=
  (abs_sin_sub_sineSeries_le_of_le hx (by norm_num)).trans (by norm_num [Nat.factorial])

/-! ### The fraction taken for π -/

/-- `piFx160` as the number it stands for. -/
noncomputable def piFraction : ℝ := (piFx160 : ℝ) / 2 ^ 160

theorem piFraction_bounds : 3 ≤ piFraction ∧ piFraction ≤ 16 / 5 := by
  have hlower : 3 * 2 ^ 160 ≤ piFx160 := by decide
  have hupper : piFx160 * 5 ≤ 16 * 2 ^ 160 := by decide
  rw [piFraction, le_div_iff₀ (by positivity), div_le_div_iff₀ (by positivity) (by positivity)]
  exact_mod_cast And.intro hlower hupper

theorem piFraction_pos : 0 < piFraction := by linarith [piFraction_bounds.1]

/-- The series at the fraction, evaluated: it is positive, and tiny. -/
theorem sineSeries_piFraction_bounds :
    1 / 2 ^ 165 ≤ sineSeries piFraction (sineTerms + 1) ∧ sineSeries piFraction (sineTerms + 1) ≤ 1 / 2 ^ 158 := by
  have hlower : (sineDen (2 ^ 160) sineTerms : ℤ) ≤ sineNum piFx160 (2 ^ 160) sineTerms * 2 ^ 165 := by decide
  have hupper : sineNum piFx160 (2 ^ 160) sineTerms * 2 ^ 158 ≤ (sineDen (2 ^ 160) sineTerms : ℤ) := by decide
  have hseries := sineNum_div_sineDen piFx160 (2 ^ 160) (by decide) sineTerms
  have hden := sineDen_pos (b := 2 ^ 160) (by decide) sineTerms
  generalize sineNum piFx160 (2 ^ 160) sineTerms = u at hlower hupper hseries
  generalize sineDen (2 ^ 160) sineTerms = v at hlower hupper hseries hden
  have hv : (0 : ℝ) < v := by exact_mod_cast hden
  have hlower' : (v : ℝ) ≤ u * 2 ^ 165 := by exact_mod_cast hlower
  have hupper' : (u : ℝ) * 2 ^ 158 ≤ v := by exact_mod_cast hupper
  have hfraction : sineSeries piFraction (sineTerms + 1) = u / v := by
    rw [hseries, sineSeries, piFraction, Nat.cast_pow, Nat.cast_ofNat]
  rw [hfraction, div_le_div_iff₀ (by positivity) hv, div_le_div_iff₀ hv (by positivity), one_mul]
  exact ⟨hlower', hupper'⟩

/-- The sine at the fraction: positive, and tiny. -/
theorem sin_piFraction_bounds : 0 < Real.sin piFraction ∧ Real.sin piFraction ≤ 1 / 2 ^ 157 := by
  obtain ⟨hthree, hupper⟩ := piFraction_bounds
  obtain ⟨hpos, htiny⟩ := sineSeries_piFraction_bounds
  have hclose := abs_le.1 (abs_sin_sub_sineSeries_le_half (x := piFraction) (abs_le.2 ⟨by linarith, hupper⟩))
  norm_num at hpos htiny hclose ⊢
  constructor <;> linarith

/-- π was rounded down: beyond π the sine is not positive (assumption log 4). -/
theorem piFraction_le_pi : piFraction ≤ Real.pi := by
  obtain ⟨_, hupper⟩ := piFraction_bounds
  by_contra! hbeyond
  have hturned := Real.sin_nonneg_of_nonneg_of_le_pi (x := piFraction - Real.pi) (by linarith)
    (by linarith [Real.pi_gt_three])
  rw [Real.sin_sub_pi] at hturned
  linarith [sin_piFraction_bounds.1]

/-- The fraction is off π by at most 2^-156: near π the sine is at least 2/π times the distance (assumption log 4). -/
theorem pi_sub_piFraction_le : Real.pi - piFraction ≤ 1 / 2 ^ 156 := by
  obtain ⟨hthree, _⟩ := piFraction_bounds
  have hpi := Real.pi_le_four
  have hjordan := Real.mul_le_sin (x := Real.pi - piFraction) (by linarith [piFraction_le_pi])
    (by linarith [Real.pi_gt_three])
  rw [Real.sin_pi_sub] at hjordan
  have hslope : 1 / 2 ≤ 2 / Real.pi := by
    rw [div_le_div_iff₀ (by norm_num) Real.pi_pos]
    linarith
  have hhalf := mul_le_mul_of_nonneg_right hslope (sub_nonneg.2 piFraction_le_pi)
  have hsin := sin_piFraction_bounds.2
  norm_num at hsin ⊢
  linarith

/-! ### The envelope's angle -/

/-- The angle whose sine `ENVQ(k, N)` rounds: `piFraction / 2 * k / N` for the model, where R195 has π. -/
noncomputable def envelopeAngle (halfTurn : ℝ) (k n : Nat) : ℝ := halfTurn / 2 * k / n

theorem envelopeAngle_piFraction (k n : Nat) :
    envelopeAngle piFraction k n = ((piFx160 * k : Nat) : ℝ) / ((2 ^ 161 * n : Nat) : ℝ) := by
  rw [envelopeAngle, piFraction, Nat.cast_mul, Nat.cast_mul, Nat.cast_pow, Nat.cast_ofNat, pow_succ _ 160]
  ring

/-- Within the ramp the angle is in the first quarter of the turn. -/
theorem envelopeAngle_mem {halfTurn : ℝ} (hpos : 0 ≤ halfTurn) (hpi : halfTurn ≤ Real.pi) {k n : Nat} (h : k < n) :
    envelopeAngle halfTurn k n ∈ Set.Icc 0 (Real.pi / 2) := by
  have hn : (0 : ℝ) < n := by exact_mod_cast Nat.zero_lt_of_lt h
  have hk : (k : ℝ) ≤ n := by exact_mod_cast h.le
  rw [envelopeAngle]
  refine ⟨by positivity, ?_⟩
  rw [div_le_iff₀ hn]
  gcongr

/-- The model's angle is in the first quarter of the turn. -/
theorem envelopeAngle_piFraction_mem {k n : Nat} (h : k < n) :
    envelopeAngle piFraction k n ∈ Set.Icc 0 (Real.pi / 2) :=
  envelopeAngle_mem piFraction_pos.le piFraction_le_pi h

/-- The angle rises along the ramp. -/
theorem envelopeAngle_mono {j k n : Nat} (h : j ≤ k) :
    envelopeAngle piFraction j n ≤ envelopeAngle piFraction k n := by
  have hpos := piFraction_pos
  unfold envelopeAngle
  gcongr

/-- The angle is off the real one by no more than the fraction is off π. -/
theorem abs_envelopeAngle_sub_le {k n : Nat} (h : k < n) :
    |envelopeAngle Real.pi k n - envelopeAngle piFraction k n| ≤ 1 / 2 ^ 156 := by
  have hn : (0 : ℝ) < n := by exact_mod_cast Nat.zero_lt_of_lt h
  have hk : (k : ℝ) / n ≤ 1 := (div_le_one hn).2 (by exact_mod_cast h.le)
  have hgap : 0 ≤ Real.pi - piFraction := sub_nonneg.2 piFraction_le_pi
  have hdiff : envelopeAngle Real.pi k n - envelopeAngle piFraction k n =
      (Real.pi - piFraction) / 2 * ((k : ℝ) / n) := by
    unfold envelopeAngle
    ring
  rw [hdiff, abs_of_nonneg (by positivity)]
  calc (Real.pi - piFraction) / 2 * ((k : ℝ) / n)
      ≤ (Real.pi - piFraction) / 2 * 1 := by gcongr
    _ ≤ 1 / 2 ^ 156 := by linarith [pi_sub_piFraction_le]

/-- In the ramp the series at the model's angle is close to the sine at the real one. -/
theorem abs_sin_sub_sineSeries_envelopeAngle_le {k n : Nat} (h : k < n) :
    |Real.sin (envelopeAngle Real.pi k n) - sineSeries (envelopeAngle piFraction k n) (sineTerms + 1)| ≤
      1 / 2 ^ 116 := by
  obtain ⟨hnonneg, hquarter⟩ := envelopeAngle_piFraction_mem h
  have hseries := abs_sin_sub_sineSeries_le_turn (x := envelopeAngle piFraction k n)
    (abs_le.2 ⟨by linarith, by linarith [Real.pi_le_four]⟩)
  have hangle := (Real.abs_sin_sub_sin_le _ _).trans (abs_envelopeAngle_sub_le h)
  refine (abs_sub_le _ _ _).trans ((add_le_add hangle hseries).trans ?_)
  norm_num

/-- The envelope value is the rounded quarter sine: the rounded series, which is not negative there (R195). -/
theorem envq_roundsUpTo {k n : Nat} (h : k < n) :
    RoundsUpTo (1 / 2 ^ 100) (envq k n) (32768 * Real.sin (envelopeAngle Real.pi k n)) := by
  have hclose := abs_sin_sub_sineSeries_envelopeAngle_le h
  rw [envelopeAngle_piFraction] at hclose
  have hround := sineRounded_roundsUpTo (Nat.mul_pos (by decide) (Nat.zero_lt_of_lt h)) hclose
  have hnonneg : 0 ≤ sineRounded (piFx160 * k) (2 ^ 161 * n) := by
    obtain ⟨hangle, hquarter⟩ := envelopeAngle_mem Real.pi_pos.le le_rfl h
    have hsin := Real.sin_nonneg_of_nonneg_of_le_pi hangle (hquarter.trans (by linarith [Real.pi_pos]))
    exact hround.nonneg (by norm_num) (by positivity)
  rwa [envq, Int.toNat_of_nonneg hnonneg]

/-! ### The series rises over the first quarter of the turn -/

/-- The partial sum of the series of the cosine to the power 2n - 2. -/
noncomputable def cosineSeries (x : ℝ) (n : Nat) : ℝ :=
  ∑ j ∈ Finset.range n, (-1) ^ j * x ^ (2 * j) / ((2 * j).factorial : ℝ)

theorem sineSeries_succ (x : ℝ) (n : Nat) :
    sineSeries x (n + 1) = sineSeries x n + (-1) ^ n * x ^ (2 * n + 1) / ((2 * n + 1).factorial : ℝ) :=
  Finset.sum_range_succ ..

theorem cosineSeries_succ (x : ℝ) (n : Nat) :
    cosineSeries x (n + 1) = cosineSeries x n + (-1) ^ n * x ^ (2 * n) / ((2 * n).factorial : ℝ) :=
  Finset.sum_range_succ ..

theorem cosineSeries_zero_angle (n : Nat) : cosineSeries 0 (n + 1) = 1 := by
  simp [cosineSeries, Finset.sum_range_succ']

/-- A power over its factorial differentiates to the power before over its factorial. -/
theorem hasDerivAt_pow_div_factorial (c x : ℝ) (m : Nat) :
    HasDerivAt (fun y => c * y ^ (m + 1) / ((m + 1).factorial : ℝ)) (c * x ^ m / (m.factorial : ℝ)) x := by
  refine (((hasDerivAt_pow (m + 1) x).const_mul c).div_const ((m + 1).factorial : ℝ)).congr_deriv ?_
  have hm : ((m : ℝ) + 1) ≠ 0 := by positivity
  have hf : (m.factorial : ℝ) ≠ 0 := by positivity
  rw [Nat.factorial_succ, Nat.add_sub_cancel]
  push_cast
  field_simp

theorem hasDerivAt_sineSeries (x : ℝ) (n : Nat) : HasDerivAt (sineSeries · n) (cosineSeries x n) x := by
  induction n with
  | zero => simpa [sineSeries, cosineSeries] using hasDerivAt_const x (0 : ℝ)
  | succ n ih =>
    simp only [sineSeries_succ, cosineSeries_succ]
    exact ih.add (hasDerivAt_pow_div_factorial _ x (2 * n))

theorem hasDerivAt_cosineSeries (x : ℝ) (n : Nat) : HasDerivAt (cosineSeries · (n + 1)) (-sineSeries x n) x := by
  induction n with
  | zero => simpa [sineSeries, cosineSeries] using hasDerivAt_const x (1 : ℝ)
  | succ n ih =>
    simp only [cosineSeries_succ _ (n + 1), sineSeries_succ]
    exact (ih.add (hasDerivAt_pow_div_factorial ((-1) ^ (n + 1)) x (2 * n + 1))).congr_deriv (by ring)

/-- A function that starts at 0 and does not fall is not negative. -/
theorem nonneg_of_hasDerivAt_nonneg {f f' : ℝ → ℝ} (hzero : f 0 = 0) (hderiv : ∀ x, HasDerivAt f (f' x) x)
    (hnonneg : ∀ x, 0 ≤ x → 0 ≤ f' x) {x : ℝ} (hx : 0 ≤ x) : 0 ≤ f x := by
  have hmono : MonotoneOn f (Set.Ici 0) := by
    refine monotoneOn_of_deriv_nonneg (convex_Ici 0) (fun y _ => (hderiv y).continuousAt.continuousWithinAt)
      (fun y _ => (hderiv y).differentiableAt.differentiableWithinAt) fun y hy => ?_
    rw [interior_Ici] at hy
    rw [(hderiv y).deriv]
    exact hnonneg y (le_of_lt hy)
  rw [← hzero]
  exact hmono Set.self_mem_Ici hx hx

/-- The partial sums alternate about the cosine and the sine: those of an odd number of terms are not below. -/
theorem alternating_series (n : Nat) :
    (∀ x, 0 ≤ x → 0 ≤ (-1) ^ n * (cosineSeries x (n + 1) - Real.cos x)) ∧
      ∀ x, 0 ≤ x → 0 ≤ (-1) ^ n * (sineSeries x (n + 1) - Real.sin x) := by
  have hsine (m : Nat) (h : ∀ x, 0 ≤ x → 0 ≤ (-1) ^ m * (cosineSeries x (m + 1) - Real.cos x)) (x : ℝ)
      (hx : 0 ≤ x) : 0 ≤ (-1) ^ m * (sineSeries x (m + 1) - Real.sin x) :=
    nonneg_of_hasDerivAt_nonneg (f := fun x => (-1) ^ m * (sineSeries x (m + 1) - Real.sin x))
      (by simp [sineSeries]) (fun y => ((hasDerivAt_sineSeries y (m + 1)).sub (Real.hasDerivAt_sin y)).const_mul _)
      h hx
  induction n with
  | zero =>
    have hcosine (x : ℝ) (_ : 0 ≤ x) : 0 ≤ (-1) ^ 0 * (cosineSeries x 1 - Real.cos x) := by
      simpa [cosineSeries] using Real.cos_le_one x
    exact ⟨hcosine, hsine 0 hcosine⟩
  | succ n ih =>
    have hcosine (x : ℝ) (hx : 0 ≤ x) : 0 ≤ (-1) ^ (n + 1) * (cosineSeries x (n + 2) - Real.cos x) := by
      refine nonneg_of_hasDerivAt_nonneg (f := fun x => (-1) ^ (n + 1) * (cosineSeries x (n + 2) - Real.cos x))
        ?_ (fun y => ((hasDerivAt_cosineSeries y (n + 1)).sub (Real.hasDerivAt_cos y)).const_mul _) ?_ hx
      · simp [cosineSeries_zero_angle]
      · intro y hy
        exact (ih.2 y hy).trans_eq (by ring)
    exact ⟨hcosine, hsine (n + 1) hcosine⟩

/-- The series rises over the first quarter of the turn: its derivative, 31 terms of the cosine's series, is not below
the cosine. -/
theorem sineSeries_monotoneOn : MonotoneOn (sineSeries · (sineTerms + 1)) (Set.Icc 0 (Real.pi / 2)) := by
  have hderiv (x : ℝ) := hasDerivAt_sineSeries x (sineTerms + 1)
  refine monotoneOn_of_deriv_nonneg (convex_Icc _ _) (fun x _ => (hderiv x).continuousAt.continuousWithinAt)
    (fun x _ => (hderiv x).differentiableAt.differentiableWithinAt) fun x hx => ?_
  rw [interior_Icc] at hx
  have habove := (alternating_series sineTerms).1 x hx.1.le
  have hcos := Real.cos_nonneg_of_neg_pi_div_two_le_of_le (by linarith [hx.1, Real.pi_pos]) hx.2.le
  rw [(hderiv x).deriv]
  rw [show (-1 : ℝ) ^ sineTerms = 1 by norm_num [sineTerms]] at habove
  linarith

/-- Rounding keeps the order of the series' values. -/
theorem sineRounded_mono {a b c d : Nat} (hb : 0 < b) (hd : 0 < d)
    (h : sineSeries ((a : ℝ) / b) (sineTerms + 1) ≤ sineSeries ((c : ℝ) / d) (sineTerms + 1)) :
    sineRounded a b ≤ sineRounded c d := by
  have hle := (sineRounded_bounds a b hb).1
  have hlt := (sineRounded_bounds c d hd).2
  rw [sineNum_div_sineDen _ _ (by assumption), ← sineSeries] at hle hlt
  have hnext : (sineRounded a b : ℝ) < sineRounded c d + 1 := by linarith
  exact Int.le_of_lt_add_one (by exact_mod_cast hnext)

end Sys2Proof.Machine

namespace Sys2Proof.Proofs.Other

open Sys2Proof Sys2Proof.Machine

/-- Settles O47: the sine's end at a whole turn by evaluation, its end at 0 and the ranges from the series' bounds. -/
theorem sineAndEnvelopeStayInRange : Obligations.SineAndEnvelopeStayInRange := by
  refine ⟨sineRounded_zero_angle _, by decide, fun p hp => ?_, fun n _ => ⟨envq_zero n, fun k => envq_le⟩⟩
  have := sinq_natAbs_le hp
  omega

/-- Settles O48: along the ramp the angle rises within the first quarter of the turn, where the series rises. -/
theorem envelopeRises : Obligations.EnvelopeRises := by
  intro k n h
  have hn : 0 < 2 ^ 161 * n := Nat.mul_pos (by decide) (Nat.zero_lt_of_lt h)
  have hseries := sineSeries_monotoneOn (envelopeAngle_piFraction_mem (Nat.lt_of_succ_lt h))
    (envelopeAngle_piFraction_mem h) (envelopeAngle_mono (Nat.le_succ k))
  rw [envelopeAngle_piFraction, envelopeAngle_piFraction] at hseries
  exact Int.toNat_le_toNat (sineRounded_mono hn hn hseries)

/-- Settles O49: every phase word is an angle up to a turn, where the series is close to the sine. -/
theorem sineIsTheRoundedRealSine : Obligations.SineIsTheRoundedRealSine := by
  intro p hp
  have hangle : |(p : ℝ) / 2 ^ 29| ≤ 63 / 10 := by
    have hp' : (p : ℝ) ≤ 3373259426 := by exact_mod_cast hp
    rw [abs_of_nonneg (by positivity), div_le_iff₀ (by positivity)]
    linarith
  have hclose := (abs_sin_sub_sineSeries_le_turn hangle).trans (by norm_num : (1 : ℝ) / 2 ^ 118 ≤ 1 / 2 ^ 116)
  exact sineRounded_roundsUpTo (b := 2 ^ Config.phaseFrac) (by decide) (by exact_mod_cast hclose)

/-- Settles O50: the model's angle is close to the real one, and the series at it is close to the sine. -/
theorem envelopeIsTheRoundedQuarterSine : Obligations.EnvelopeIsTheRoundedQuarterSine := by
  intro k n h
  exact_mod_cast envq_roundsUpTo h

end Sys2Proof.Proofs.Other
